-- ==== Sys2Proof/Word.lean ====
section
/-! DEFINITION. Sys2Proof/Word.lean: the word types of the LX40 (R1) and their plainest arithmetic. -/

namespace Sys2Proof

/-- A byte, 8 bits (R1). -/
abbrev Byte := BitVec 8
/-- A parcel, one 16-bit slot of the code store (R1). -/
abbrev Parcel := BitVec 16
/-- A word, 32 bits (R1). -/
abbrev Word := BitVec 32
/-- A pair, 64 bits; the even-numbered register holds bits [31:0] (R1). -/
abbrev Pair64 := BitVec 64

/-- A word from a natural number, modulo 2^32. -/
abbrev w32 (n : Nat) : Word := BitVec.ofNat 32 n

/-- A word from an integer, modulo 2^32. -/
abbrev wInt (z : Int) : Word := BitVec.ofInt 32 z

end Sys2Proof
end

