-- ==== Sys2Proof/Config.lean ====
section
/-! DEFINITION. Sys2Proof/Config.lean: what is fixed for the machine, and the free values: the values that the
spec leaves open, which no proof can see (notes/assumptions 10 and 13). -/

namespace Sys2Proof.Config

/-- The bytes that the spec calls undefined (R75: the other bytes of a word that a sub-word store reads as
uncorrectable). The argument counts the draws (State.free); nothing constrains the value. Assumption 10. -/
opaque freeByte : Nat → Byte

/-- What a rank and a logical core resolve to after a table of their process has been changed within a step otherwise than
by a staged MAPW, where R93 leaves resolutions undefined until the next boundary: the cycle, the process, the rank or
the logical core. Nothing constrains the values. Assumption 29. -/
opaque openChip : Nat → BitVec 16 → Nat → Option (BitVec 22)

@[inherit_doc openChip]
opaque openCore : Nat → BitVec 16 → Nat → Option (BitVec 16 × BitVec 16)

/-- SHA-256 of a firmware image (R265, R273), uninterpreted. Assumption 13. -/
opaque digest : List Byte → List Byte

/-- Whether a signature of an image verifies against the key fused in the chip (R273), uninterpreted.
Assumption 13. -/
opaque imageSignatureOk : List Byte → List Byte → Bool

/-- The signature of an attestation report (R265), uninterpreted. Assumption 13. -/
opaque attestSignature : List Byte → List Byte

/-- The chip's identity certificate (R265), uninterpreted. Assumption 13. -/
opaque identityCertificate : Nat → List Byte

end Sys2Proof.Config
end

