-- ==== Sys2Proof/Syntax.lean ====
section
/-! DEFINITION. Sys2Proof/Syntax.lean: the operands and the one inductive of instructions, one constructor per row
of spec/opcode_table.json: 169 instructions of the cores and 72 operations and events of the device. -/

namespace Sys2Proof

/-- A direction of a neighbour port, numbered as the registers qw, qe, qn, qs (R50) and as PQSEL.QDIR (R65). -/
inductive Dir
  | w | e | n | s
  deriving DecidableEq, Repr

/-- A readable register name (R50): g0 to g15, a port, zr, lk, cc, bd. -/
inductive Reg
  | g (n : Fin 16)
  | port (d : Dir)
  | zr | lk | cc | bd
  deriving DecidableEq, Repr

/-- A pair operand (R51): g(2k):g(2k+1), or zr. -/
inductive Pair
  | even (k : Fin 8)
  | zr
  deriving DecidableEq, Repr

/-- A pointer register p0 to p7 (R51). -/
abbrev PtrNo := Fin 8
/-- A vector register v0 to v7 (R51). -/
abbrev VNo := Fin 8

/-- Rounding modes (R151). -/
inductive Rnd
  | rne | rtz | rup | rdn | rna | sr
  deriving DecidableEq, Repr

/-- Number formats 0 to 9 (R143). -/
inductive Fmt
  | fp32 | bf16 | fp16 | e4m3 | e5m2 | e2m1 | i32 | i8 | i16 | i4
  deriving DecidableEq, Repr

/-- The condition of VCMP (R400). -/
inductive Cond
  | eq | lt | le
  deriving DecidableEq, Repr

/-- A memory operand (R53, R407): pointer, post-increment, and the offset in units of the access. -/
structure MemOp where
  p : PtrNo
  post : Bool
  off : Int
  deriving DecidableEq, Repr

/-- The element type of a stream instruction (R55): INT32 wrapping or saturating, or FP32 with its rounding. -/
inductive StreamTy
  | int (sat : Bool)
  | fp (rnd : Rnd)
  deriving DecidableEq, Repr

/-- The modifiers of an arithmetic vector instruction (R197): element type (true: INT32), rounding, PN. -/
structure VMod where
  int : Bool
  rnd : Rnd
  pn : Bool
  deriving DecidableEq, Repr

/-- One host setting made at boot stage 4 (R262, R273). -/
inductive BootSetting
  /-- The policy of a fabric port: encrypt or plain. -/
  | policy (port : Fin 19) (encrypt : Bool)
  /-- The key of a fabric port. -/
  | key (port : Fin 19) (key : List Byte)
  /-- The VLAN of a fabric port, none for no IEEE 802.1Q tag. -/
  | vlan (port : Fin 18) (vlan : Option (BitVec 12))
  /-- The message sump quota of a die, in bytes (R20). -/
  | messageSump (die : Fin 8) (bytes : Nat)
  /-- The stage sump quota of a die, in bytes (R117). -/
  | stageSump (die : Fin 8) (bytes : Nat)
  /-- The map record of a PID, words W0 to W7 (R91). -/
  | mapRecord (pid : BitVec 16) (words : List Word)
  deriving DecidableEq, Repr

/-- The instructions and operations of spec/opcode_table.json. -/
inductive Instr
  -- page 0 (R281)
  | nop
  | br (off : Int) | call (off : Int)
  | jr (a : Reg) | jalr (a : Reg)
  | bz (d : Reg) (off : Int) | bnz (d : Reg) (off : Int)
  | endAct | seal
  | send (d : Pair) (a : Reg) (n : Fin 9) | sendm (d : Pair) (a : Reg) (n : Fin 9)
  | reply (a : Reg) (n : Fin 9)
  | migr (d : Pair) (a : Reg)
  | geth (d : Reg) (k : Fin 8)
  | add (d a b : Reg) | sub (d a b : Reg) | and (d a b : Reg) | or (d a b : Reg) | xor (d a b : Reg)
  | shl (d a b : Reg) | shr (d a b : Reg) | sra (d a b : Reg)
  | mul (d a b : Reg) | mulh (d a b : Reg) | mulhu (d a b : Reg)
  | min (d a b : Reg) | max (d a b : Reg) | minu (d a b : Reg) | maxu (d a b : Reg)
  | slt (d a b : Reg) | sltu (d a b : Reg) | seq (d a b : Reg)
  | divu (d a b : Reg) | remu (d a b : Reg)
  | clz (d a : Reg) | popc (d a : Reg)
  | sel (d a b : Reg)
  | bfx (d a : Reg) (imm : Int) | bfi (d a : Reg) (imm : Int)
  | addi (d a : Reg) (imm : Int) | andi (d a : Reg) (imm : Int) | ori (d a : Reg) (imm : Int)
  | xori (d a : Reg) (imm : Int)
  | shli (d a : Reg) (imm : Int) | shri (d a : Reg) (imm : Int) | srai (d a : Reg) (imm : Int)
  | slti (d a : Reg) (imm : Int)
  | ldi (d : Reg) (imm : Int) | ldhi (d : Reg) (imm : Int)
  | ldw (d : Reg) (m : MemOp) | ldh (d : Reg) (m : MemOp) | ldhu (d : Reg) (m : MemOp)
  | ldb (d : Reg) (m : MemOp) | ldbu (d : Reg) (m : MemOp) | ldd (d : Pair) (m : MemOp)
  | lds (d : Reg) (m : MemOp)
  | stw (d : Reg) (m : MemOp) | sth (d : Reg) (m : MemOp) | stb (d : Reg) (m : MemOp) | std (d : Pair) (m : MemOp)
  | setf (m : MemOp) | sete (m : MemOp) | tstf (d : Reg) (m : MemOp) | tstp (d : Reg) (m : MemOp) | clrp (m : MemOp)
  | pset (d : PtrNo) (a b : Reg) | pstr (d : PtrNo) (imm : Int) | padd (d : PtrNo) (imm : Int)
  | pget (d : Reg) (a : PtrNo) (stride : Bool)
  | sadd (d a b : PtrNo) (e : Reg) (t : StreamTy) | smul (d a b : PtrNo) (e : Reg) (t : StreamTy)
  | sfma (d a b : PtrNo) (e : Reg) (t : StreamTy) | scpy (d a : PtrNo) (e : Reg)
  -- page 1 (R282)
  | fadd (d a b : Reg) (r : Rnd) | fsub (d a b : Reg) (r : Rnd) | fmul (d a b : Reg) (r : Rnd)
  | ffma (d a b : Reg) (r : Rnd) | fdiv (d a b : Reg) (r : Rnd) | fsqrt (d a : Reg) (r : Rnd)
  | fmin (d a b : Reg) | fmax (d a b : Reg) | feq (d a b : Reg) | flt (d a b : Reg) | fle (d a b : Reg)
  | fclass (d a : Reg)
  | ftoi (d a : Reg) (r : Rnd) (sat : Bool) | itof (d a : Reg) (r : Rnd) (sat : Bool)
  | fcvt (d a : Reg) (r : Rnd) (sat : Bool) (dst src : Fmt)
  | fexp2 (d a : Reg) (r : Rnd) | flog2 (d a : Reg) (r : Rnd) | frcp (d a : Reg) (r : Rnd) | frsq (d a : Reg) (r : Rnd)
  | twosum (d : Pair) (a b : Reg) | twoprod (d : Pair) (a b : Reg)
  -- page 2 (R283)
  | vadd (d a b : VNo) (m : VMod) | vsub (d a b : VNo) (m : VMod) | vmul (d a b : VNo) (m : VMod)
  | vfma (d a b : VNo) (m : VMod) | vmin (d a b : VNo) (m : VMod) | vmax (d a b : VNo) (m : VMod)
  | vand (d a b : VNo) | vor (d a b : VNo) | vxor (d a b : VNo) | vshl (d a b : VNo) | vshr (d a b : VNo)
  | vcmp (d a b : VNo) (c : Cond) (int : Bool) | vsel (d a b : VNo)
  | vcvt (d a : VNo) (r : Rnd) (sat : Bool) (dst src : Fmt)
  | vexp2 (d a : VNo) (r : Rnd) (pn : Bool) | vlog2 (d a : VNo) (r : Rnd) (pn : Bool)
  | vrcp (d a : VNo) (r : Rnd) (pn : Bool)
  | vrsum (d : Reg) (a : VNo) (m : VMod) (x : Bool) | vrmax (d : Reg) (a : VNo) (m : VMod) (x : Bool)
  | vscan (d a : VNo) (m : VMod)
  | vbcst (d : VNo) (a : Reg) | vperm (d a b : VNo)
  | vld (d : VNo) (m : MemOp) (s : Bool) (t : Fmt) | vst (d : VNo) (m : MemOp) (t : Fmt)
  | vgth (d : VNo) (m : MemOp) (s : Bool) (e : VNo) (t : Fmt) | vsct (d : VNo) (m : MemOp) (e : VNo) (t : Fmt)
  | vmvg (d : Reg) (a : VNo) (b : Reg) | vsetl (a : Reg) | vacq
  -- page 3 (R284)
  | mxcfg (d : Reg) (e : Reg) | mxld (d : Reg) (a : Pair) (e : Reg) | mxmul (d : Reg) (a b : Pair) (e : Reg)
  | mxdr (d : Reg) (a : Pair) (e : Reg) (r : Rnd) (sat : Bool) | mxdra (d : Reg) (a : Pair) (e : Reg)
  | mxqry (d : Pair) (a : Reg)
  | cpget (d : Reg) (a b : Pair) (e : Reg) | cpput (d : Reg) (a b : Pair) (e : Reg)
  | cpfst (d : Reg) (a b : Pair) (e : Reg) | cpfill (d a : Reg) (b : Pair) (e : Reg)
  | gld (d : Reg) (a : Pair) | gldd (d a : Pair)
  | gst (d : Reg) (a : Pair) (e : Reg) | gstd (d a : Pair) (e : Reg) | gstmc (d a : Pair) (b : Reg) (e : Reg)
  | amadd (d : Pair) (a b e : Reg) | amswp (d : Pair) (a b e : Reg) | amcas (d : Pair) (a : Reg) (b : Pair) (e : Reg)
  | ammax (d : Pair) (a b e : Reg) | ammin (d : Pair) (a b e : Reg) | amor (d : Pair) (a b e : Reg)
  | amand (d : Pair) (a b e : Reg)
  | nadd (d a b : Reg) | ncas (d a : Reg) (b : Pair) | nswp (d a b : Reg)
  | step | stepw | stepq (d : Pair) (sel : Fin 3)
  | bara (d : Reg) (b : Fin 16) | barw (d : Reg) (b : Fin 16) | bari (d : Reg) (b : Fin 16)
  | tset (d a : Reg) (n : Fin 9) (e : Reg) | tdec (d : Pair) (a b : Reg)
  | launch (d : Pair) (a e : Reg)
  -- page 4 (R285)
  | trap (code : Int) | brk (code : Int) | fence0 | fence1
  | csrr (d : Reg) (csr : Int) | csrw (d : Reg) (csr : Int)
  | pwrq (d : Reg) (sel : Fin 5)
  | svsend (d : Pair) (a : Reg) (n : Fin 9) | redlv (d : Pair) (a e : Reg)
  | stabt (a b e : Reg) | stcmt (a b e : Reg) | mapw (d a e : Reg)
  -- CSR operations that the table names as rows of their own (R317)
  | pqdataRead (d : Reg) | pqdataWrite (d : Reg) | cycleRead (d : Reg) | fqbaseWrite (d : Reg) | fqheadWrite (d : Reg)
  -- operations and events of the device (the rows of the table from MESSAGE_ARRIVAL on)
  /-- The i-th message of the mesh reaches its core. -/
  | messageArrival (i : Nat)
  /-- The sump of a die returns an entry to a core. -/
  | sumpReturn (die core : Nat)
  /-- A core dispatches: to context 7 (sup) or to a user context. -/
  | dispatch (core : Nat) (sup : Bool)
  | budgetExpiry (core ctx : Nat)
  | releaseResume (core ctx : Nat)
  | iterativeCommit (core : Nat)
  | portWordArrival (i : Nat)
  | portPlaceReturn (i : Nat)
  | globalReadReply (i : Nat)
  | atomicAtOwner (core : Nat)
  | taskDecrement (core : Nat)
  | farStoreTranslation (i : Nat)
  | farStoreAccept (i : Nat)
  | acceptanceNotice (i : Nat)
  | stallLimit (station : Nat)
  | readServe (i : Nat)
  | arrivalReport (core : Nat)
  | applySignal (pid : BitVec 16) (station : Nat)
  | applyDone (pid : BitVec 16) (station : Nat)
  | commitNotice (pid : BitVec 16)
  | stepDecision
  | mapwExecute
  | copyRequest (cluster : Nat)
  | copyReadReturn (i : Nat)
  | cpputDelivery (i : Nat)
  | copyCompletion (cluster : Nat) (i : Nat)
  | waitTimeout (cluster : Nat) (i : Nat)
  | leaveGrant (die : Nat)
  | matrixCommandEnd (cluster : Nat)
  | drainAddArrival (i : Nat)
  | drainAddApply (cluster : Nat)
  | passGrant (cluster : Nat)
  | vectorResultWrite (core : Nat)
  | launchRequest
  | placement
  | preemption
  | releaseCluster
  | releaseLaunch
  | preemptLaunch
  | removeLaunch
  | drainPhase (cluster : Nat)
  | freeClusterReport (die : Nat)
  | supervisorQueueWrite (core : Nat)
  | hostRecordSend
  | fabricPacketReceive
  | acknowledgementReceive (chip : BitVec 22) (cls : Fin 4) (seq : BitVec 32)
  | resendTimeout (chip : BitVec 22) (cls : Fin 4)
  | portStateChange (port : Fin 18) (up : Bool)
  | hunreachWrite (chip : BitVec 22)
  | hostRegisterWrite (reg : Nat) (v : Word)
  | powerBudgetWrite (v : Word)
  | clusterOn (cluster : Nat)
  | clusterIdle (cluster : Nat)
  | clusterOff (cluster : Nat)
  | clusterReset (cluster : Nat)
  | clusterClockStop (cluster : Nat)
  | clusterWake (cluster : Nat)
  | thermalSample (die : Fin 8) (temp : BitVec 8)
  | hostSumpQuota (die : Fin 8) (stage : Bool) (bytes : Nat)
  | rekey (port : Fin 19) (key : List Byte)
  | attestationRequest (nonce : List Byte)
  | chipReset
  | bootStage (image signature : List Byte)
  | endOfBoot
  | streamElement (core : Nat)
  | hostBootSetting (h : BootSetting)
  | pidRetire (pid : BitVec 16)
  deriving DecidableEq, Repr

end Sys2Proof
end

