-- ==== Sys2Proof/Machine/State.lean ====
section
/-! DEFINITION. Sys2Proof/Machine/State.lean: the state of one LX40 package as plain data: everything that the spec
gives the machine, and the model's own schedule. Cores are named by their physical number 128 y + x (R8), clusters by
640 × die + cluster (R269), stations 0 to 31, processes by PID. A table lists what differs from its reset value. -/

namespace Sys2Proof.Machine

/-- A table: entries by key, keys rising. What it does not list has its reset value. -/
abbrev Tab (α : Type) := List (Nat × α)

/-- The sideband of a line (R71): full, poison. -/
structure Side where
  fe : Bool
  p : Bool
  deriving DecidableEq, Repr

/-- An error that a check code finds in a word (R74, R76). -/
inductive WordError
  /-- One bit: corrected on read. -/
  | corrected
  /-- Uncorrectable. -/
  | uncorrectable
  deriving DecidableEq, Repr

/-- A memory: bytes, line sidebands by line number, words in error by byte address. Unlisted bytes are 0, unlisted
lines are empty and not poisoned, unlisted words have no error. -/
structure Mem where
  bytes : List Host.Cell
  side : Tab Side
  errs : Tab WordError
  deriving DecidableEq, Repr

/-- A message (R15): the fields of its header H0 to H7 and its payload words. -/
structure Msg where
  dcore : BitVec 16
  dkey : BitVec 16
  dchip : BitVec 22
  score : BitVec 16
  sctx : BitVec 3
  schip : BitVec 22
  entry : BitVec 16
  prio : BitVec 6
  ans : Bool
  rel : Bool
  utag : BitVec 7
  pid : BitVec 16
  stag : BitVec 16
  seq : BitVec 32
  nw : BitVec 5
  kind : BitVec 4
  rcnt : BitVec 2
  fwd : Bool
  div : Bool
  sv : Bool
  body : List Word
  /-- H0 and H1 as the message carried them when it was diverted (R438). -/
  old0 : Word
  old1 : Word
  /-- The logical core that the receiving gateway resolves, for a message to another chip (R90, R92). -/
  goal : BitVec 16
  /-- The group, for the copy of a SENDM to a member chip, whose gateway serves the members that lie there (R261,
  assumption 81). -/
  copy : Option (BitVec 12)
  deriving DecidableEq, Repr

/-- An entry of the arrival buffer (R18), or a line of the supervisor queue that waits for context 7 (R242). -/
structure Slot where
  msg : Msg
  /-- The cycle in which it reached the network interface (R23); 0 for one that a redelivery has returned (R36). -/
  seen : Nat
  /-- The context that runs it. -/
  runner : Option Nat
  /-- A line of the supervisor queue: it takes no slot. -/
  line : Bool
  deriving DecidableEq, Repr

/-- One entry of the undo log (R32). -/
inductive LogEntry
  /-- The pre-image of a word as it was read (R74, R75). -/
  | word (addr : Nat) (old : Word)
  /-- The sideband of the line at an address. -/
  | side (addr : Nat) (old : Side)
  deriving DecidableEq, Repr

/-- A trap: cause code and the two INFO words (R232). -/
structure TrapInfo where
  cause : Nat
  info0 : Word
  info1 : Word
  deriving DecidableEq, Repr

/-- A GLD or GLDD whose reply is outstanding or brought a fault (R333). -/
structure ReadMark where
  id : Nat
  /-- The registers that await the reply. -/
  regs : List (Fin 16)
  orig : Nat
  fault : Option TrapInfo
  deriving DecidableEq, Repr

/-- Who issued a command (R30, R437): the core and context, its logical name, process, partition key and step tag. -/
structure Issuer where
  core : Nat
  ctx : Nat
  lcore : BitVec 16
  rank : BitVec 22
  pid : BitVec 16
  key : BitVec 16
  tag : BitVec 16
  deriving DecidableEq, Repr

/-- The matrix commands (R173). -/
inductive MxOp
  | cfg | ld | mul | dr | dra
  deriving DecidableEq, Repr

/-- A matrix command in a send buffer or a queue (R174): its words as they were at issue. -/
structure MxCmd where
  op : MxOp
  w : Word
  a0 : Word
  a1 : Word
  b0 : Word
  b1 : Word
  rnd : Rnd
  sat : Bool
  hw : Option Word
  /-- The physical core of the peer endpoint of MXDRA, and its key (R187). -/
  peer : Nat
  peerKey : BitVec 16
  by_ : Issuer
  deriving DecidableEq, Repr

/-- An exact value: NaN, an infinity, or (-1)^neg × mant × 2^exp. -/
inductive XVal
  | nan
  | inf (neg : Bool)
  | fin (neg : Bool) (mant : Nat) (exp : Int)
  deriving DecidableEq, Repr

/-- What a drain-add carries for one element (R187). -/
inductive AddVal
  | fp (v : XVal)
  | int (v : Word)
  deriving DecidableEq, Repr

/-- A drain-add on its way to, or in, the peer's queue (R187). -/
structure DrainAdd where
  cmd : MxCmd
  rows : List (List AddVal)
  mask : BitVec 64
  xcnt : BitVec 32
  deriving DecidableEq, Repr

/-- An entry of the matrix queue (R188). -/
inductive MxEntry
  | cmd (c : MxCmd)
  | add (a : DrainAdd)
  deriving DecidableEq, Repr

/-- What waits for a place in the matrix queue (R188). -/
inductive MxWaiter
  | release (core ctx : Nat)
  | add (a : DrainAdd)
  deriving DecidableEq, Repr

/-- A word of local memory that a unit has read ahead (R125, R129, R138): its address, the word, the poison of its line. -/
structure NearView where
  addr : Nat
  val : Word
  p : Bool
  deriving DecidableEq, Repr

/-- A line that an engine writes (R125): the words that have not performed, and the sideband change that follows the last of
them: whole, poison. cmd: the copy command. -/
structure EngLine where
  cmd : Nat
  line : Nat
  words : List (Nat × Word)
  side : Option (Bool × Bool)
  deriving DecidableEq, Repr

/-- Why the head command of a matrix queue has run and has not left (R131, R187). -/
inductive MxEnd
  /-- Its last writes have not performed; the status of its completion. -/
  | writes (status : Nat)
  /-- Its drain-add is on its way. -/
  | transfer
  deriving DecidableEq, Repr

/-- The copy commands (R202), and a CPPUT delivery accepted from a peer (R208). -/
inductive CpOp
  | get | put | fst | fill | deliver
  deriving DecidableEq, Repr

/-- A line of data with its poison. -/
structure LineData where
  line : Nat
  words : List Word
  p : Bool
  deriving DecidableEq, Repr

/-- Progress of one block line of a copy command: requests not yet answered, words that came, requests that faulted,
poison seen. -/
structure LineProgress where
  line : Nat
  left : Nat
  wrote : Nat
  faults : Nat
  p : Bool
  deriving DecidableEq, Repr

/-- A copy command (R203, R204) with its progress. -/
structure CpCmd where
  id : Nat
  op : CpOp
  w : Word
  a : BitVec 64
  b0 : Word
  b1 : Word
  hw : Option Word
  by_ : Issuer
  /-- The physical core (or, on another chip, the logical core), chip and key of a CPPUT endpoint. -/
  peer : Nat
  peerChip : BitVec 22
  peerKey : BitVec 16
  /-- Cycle of its entry into the queue. -/
  entered : Nat
  /-- The next request: 32 × block line + group of that line (R206, R213). -/
  next : Nat
  /-- Requests issued and not yet returned or accepted. -/
  open_ : Nat
  /-- The lines begun. -/
  prog : List LineProgress
  /-- The lines of a CPPUT that have been read, or of a delivery. -/
  lines : List LineData
  /-- Requests that faulted. -/
  faulted : Nat
  /-- The lowest nonzero status so far, 0 when none. -/
  status : Nat
  /-- Since when its next line has been found empty (R214). -/
  emptySince : Option Nat
  /-- The peer of a CPPUT has ended it. -/
  finished : Bool
  /-- The sender's engine: cluster and command, for a delivery from a peer. -/
  from_ : Option (BitVec 22 × Nat × Nat)
  /-- The arrival message's SEQ, assigned at the hand-over (R437). -/
  aseq : Word
  /-- Words of its source lines that the engine has read ahead (R138). -/
  views : List NearView
  deriving DecidableEq, Repr

/-- A MAPW request (R343). -/
structure MapwReq where
  by_ : Issuer
  ctl : Word
  addr : Nat
  /-- The image as read at the release; none when unreadable (R345 status 6). -/
  image : Option (List Word)
  hw : Option Word
  deriving DecidableEq, Repr

/-- A resolved endpoint (R92). -/
inductive Resolved
  /-- On this chip: physical core and key. -/
  | here (dcore dkey : BitVec 16)
  /-- On another chip: the chip, and the logical core that its gateway resolves. -/
  | far (chip : BitVec 22) (lcore : BitVec 16)
  /-- It does not resolve. -/
  | dead
  deriving DecidableEq, Repr

/-- A REDLV request (R363). -/
structure RedlvReq where
  by_ : Issuer
  /-- The endpoint of a divert as resolved at issue, and SV (R90); none for zr. Its logical core. -/
  ep : Option (Resolved × Bool)
  lcore : BitVec 16
  addr : Nat
  hw : Option Word
  deriving DecidableEq, Repr

/-- A STABT or STCMT decision (R382). -/
structure DecisionReq where
  by_ : Issuer
  /-- The chip on which it was issued. -/
  origin : BitVec 22
  abort : Bool
  pid : BitVec 16
  step : Word
  hw : Option Word
  deriving DecidableEq, Repr

/-- An entry of a send buffer (R30). -/
inductive Buffered
  | msg (m : Msg)
  | multicast (group : Nat) (m : Msg)
  | matrix (c : MxCmd)
  | copy (c : CpCmd)
  | mapw (r : MapwReq)
  | redlv (r : RedlvReq)
  | decision (r : DecisionReq)
  deriving DecidableEq, Repr

/-- An activation (R21 to R38). -/
structure Act where
  /-- Parcel index of the next instruction; 65,536 when an instruction ended at the last parcel (R277). -/
  pc : Nat
  /-- The trigger message. -/
  trig : Msg
  /-- The budget loaded at dispatch, and the cycle in which it runs out (R28). -/
  loaded : Nat
  deadline : Nat
  /-- The restartable prefix lasts (R32, R33). -/
  open_ : Bool
  /-- The undo log, newest entry first (R32). -/
  log : List LogEntry
  /-- Pending STEPs (R96). -/
  steps : Nat
  /-- Reads outstanding or faulted (R333). -/
  reads : List ReadMark
  /-- END or MIGR has issued and pending STEPs remain (R321, R351). -/
  ending : Bool
  /-- Lines that a waiting VLD.S or VGTH.S has read (R410). -/
  sync : List LineData
  /-- The generation that a waiting BARW has read from its operand (R134). -/
  waitGen : Option Word
  deriving DecidableEq, Repr

/-- What makes a store to local memory (R125, R127); record: a TSET, whose words no action of the service thread comes between
(R389). -/
inductive StoreBy
  | scalar | stream | vector | record
  deriving DecidableEq, Repr

/-- A store that has issued and has not performed (R125, R129): the word address, the bits written, the value, what makes it,
and the poison that a vector store brings to the line (R71). -/
structure LateStore where
  addr : Nat
  mask : Word
  val : Word
  kind : StoreBy
  p : Bool
  deriving DecidableEq, Repr

/-- What a scalar load takes of its word, from bit 0 of the addressed byte (R339). -/
inductive LoadPart
  | word | half | halfU | byte | byteU
  deriving DecidableEq, Repr

/-- A load of the scratchpad that has issued and has not performed (R129): the word address, the byte of the word, what it takes,
its register, and the word as it stood at issue. -/
structure LateLoad where
  addr : Nat
  at_ : Nat
  part : LoadPart
  dst : Reg
  val : Word
  deriving DecidableEq, Repr

/-- An abort whose unwinding goes on (R34, R142): the activation, whose log holds what is still to be written back, and what
its record takes. -/
structure Undo where
  act : Act
  trap : TrapInfo
  pc : Nat
  orig : Nat
  popped : List Word
  deriving DecidableEq, Repr

/-- A context 1 to 7. -/
structure Ctx where
  g : Vector Word 16
  pa : Vector Word 8
  ps : Vector (BitVec 16) 8
  lk : Word
  fflags : BitVec 5
  /-- The CYCLE high latch (R63). -/
  chi : Word
  act : Option Act
  /-- An abort that has not ended (R142). -/
  undo : Option Undo
  /-- Entries of a release that stopped at a full engine queue (R188). -/
  handing : List Buffered
  /-- The releases behind it, oldest first, that have not handed on an entry (R139, R371). -/
  waiting : List (List Buffered)
  /-- Entries not yet released (R30). -/
  sbuf : List Buffered
  /-- Inbound port queues, by direction (R57). -/
  inq : Vector (List Word) 4
  /-- Words counted toward each outbound port: in the queue and in flight (R58). -/
  outq : Vector Nat 4
  /-- Stores that have not performed, oldest first, and words read ahead (R125, R129). -/
  lateStores : List LateStore
  views : List NearView
  /-- Loads that have not performed, oldest first (R129). -/
  lateLoads : List LateLoad
  /-- The cycle from which no operand of the next instruction is in flight (R45, R47). -/
  busy : Nat
  deriving DecidableEq, Repr

/-- An operation of the iterative unit in progress (R48, R319). -/
structure IterOp where
  ctx : Nat
  dst : Reg
  res : Word
  flags : BitVec 5
  orig : Nat
  deriving DecidableEq, Repr

/-- The stream operations (R55). -/
inductive StreamOp
  | sadd | smul | sfma | scpy
  deriving DecidableEq, Repr

/-- A stream in progress (R55). -/
structure StreamRun where
  ctx : Nat
  op : StreamOp
  d : PtrNo
  a : PtrNo
  b : PtrNo
  ty : StreamTy
  i : Nat
  n : Nat
  flags : BitVec 5
  next : Nat
  ip : Parcel
  first : Parcel
  popped : List Word
  deriving DecidableEq, Repr

/-- A vector instruction in a core's queue (R194), with what was read at issue. -/
structure VecEntry where
  ins : Instr
  ctx : Nat
  orig : Nat
  vl : Nat
  /-- The g operand read at issue, or the effective address of a memory form. -/
  x : Word
  /-- The lines that a synchronising load has read. -/
  held : Option (List LineData)
  /-- Releases of its context that precede it and have not been made (R139). -/
  after : Nat
  /-- Passes granted. -/
  granted : Nat
  /-- Passes of a load that have been granted and whose words are not all read (R125). -/
  owed : List Nat
  /-- Result lanes computed so far: lane, value, poison. -/
  out : List (Nat × Word × Bool)
  flags : BitVec 5
  /-- Lowest scatter lane not written: address and lane + 256 × reason (R409). -/
  lost : Option (Word × Word)
  /-- A pass has failed its check twice (R201). -/
  failed : Bool
  /-- The port words popped at issue (R59). -/
  popped : List Word
  /-- The words of memory that it has read, with the poison of their lines: one access for each (R125). -/
  got : List (Nat × Word × Bool)
  deriving DecidableEq, Repr

/-- The content of a record, but for its reporter and RSEQ. -/
structure Report where
  cause : Nat
  cls : Nat
  sub : Nat
  rst : Bool
  parked : Bool
  npop : Nat
  pid : BitVec 16
  stag : BitVec 16
  rctx : Nat
  unit : Nat
  uidx : Nat
  pc : Nat
  orig : Nat
  info0 : Word
  info1 : Word
  body : List Word
  deriving DecidableEq, Repr

/-- A record whose continuation waits to be parked (R239): the continuation, whether it keeps three slots, whether the
record is for the host, whether it is for the supervisor endpoint of the continuation's PID, and the record. -/
structure ParkWait where
  msg : Msg
  slots : Bool
  host : Bool
  sup : Bool
  rep : Report
  deriving DecidableEq, Repr

/-- A core (R45 to R65). Context 0, the service thread, has no registers but the cycle of serviceBusy. -/
structure Core where
  tcm : Mem
  lcore : BitVec 16
  rank : BitVec 22
  pid : BitVec 16
  pkey : BitVec 16
  buddef : BitVec 29
  budmax : BitVec 29
  redlim : BitVec 2
  mxretry : BitVec 4
  vweight : BitVec 4
  stquota : BitVec 16
  stallmax : Word
  svcore : BitVec 16
  svchip : BitVec 22
  chkcnt : BitVec 16
  qctx : BitVec 3
  qdir : BitVec 2
  qovf : Bool
  fqBase : BitVec 12
  fqNlm1 : BitVec 12
  fqEn : Bool
  fqHead : BitVec 12
  fqTail : BitVec 12
  fqCnt : BitVec 13
  fqEntry : BitVec 16
  fqPrio : BitVec 6
  ringSeq : Word
  mlim : BitVec 16
  tlim : BitVec 4
  tcnt : BitVec 4
  ret : Bool
  /-- Sequence counter of the network interface (R16). -/
  seq : Word
  /-- Far-store sequence counter (R101). -/
  farSeq : Word
  /-- The arrival buffer in arrival order (R18). -/
  buf : List Slot
  /-- Step state (R94). -/
  s : BitVec 64
  k : BitVec 16
  q : BitVec 16
  /-- Steps at which it has arrived and that are not yet reported (R97). -/
  arrived : List (BitVec 64)
  /-- Those of them whose report a far store or a read of the core delayed (R114). -/
  late : List (BitVec 64)
  /-- The step from which it is a member of its domain (R100); none outside a domain. -/
  joined : Option (BitVec 64)
  /-- The context of 1 to 7 that issued last (R45); 7 after reset, so that the order starts at 1. -/
  last : Nat
  /-- The cycle in which that context issued, and the one of the last service action; none after reset (R45). -/
  issuedAt : Option Nat
  servedAt : Option Nat
  /-- The cycle from which no operand of the service thread is in flight (R45, R47). -/
  serviceBusy : Nat
  iter : Option IterOp
  stream : Option StreamRun
  /-- The context that holds the vector slot (R192). -/
  vslot : Option Nat
  /-- Contexts that wait in VACQ, in issue order (R395). -/
  vwait : List Nat
  /-- Lanes: lane i of register v at key 64 v + i (R192). -/
  lanes : Tab Word
  /-- Lane-poison masks by register. -/
  vpoison : Vector (BitVec 64) 8
  vl : Nat
  vq : List VecEntry
  cw : Int
  /-- Fault records that wait for room to park their continuation (R239). -/
  parkWait : List ParkWait
  /-- Checker mismatches that nature has in store: scalar, vector (R49, R201). -/
  mism : Nat
  vmism : Nat
  deriving DecidableEq, Repr

/-- Power states of a cluster (R266). -/
inductive Power
  | on | idle | off
  deriving DecidableEq, Repr

/-- A transition in progress (R267). -/
inductive Transition
  /-- Leaving ON: dispatch stops, activations end, buffers and queues empty. -/
  | leave (target : Power)
  /-- Waking to ON. -/
  | wake
  deriving DecidableEq, Repr

/-- A draining cluster (R227). -/
structure Drain where
  phase : Nat
  save : Bool
  /-- Copy commands not yet started, kept for the image (R228). -/
  kept : List CpCmd
  deriving DecidableEq, Repr

/-- A barrier (R133). -/
structure Barrier where
  gen : Word
  need : BitVec 8
  cnt : BitVec 8
  deriving DecidableEq, Repr

/-- A tile (R172); element (m, n) at key 64 m + n. -/
structure Tile where
  mode : BitVec 2
  pn : Bool
  vals : Tab Word
  mask : BitVec 64
  xcnt : BitVec 32
  deriving DecidableEq, Repr

/-- An inbox window (R209). -/
structure Window where
  base : BitVec 12
  nlw : BitVec 12
  en : Bool
  entry : BitVec 16
  prio : BitVec 6
  tcore : BitVec 3
  utag : BitVec 7
  deriving DecidableEq, Repr

/-- An entry of a cluster's endpoint cache (R93): the process, the endpoint as an instruction names it, what it resolved to. -/
structure Cached where
  pid : BitVec 16
  lcore : BitVec 16
  rank : BitVec 22
  res : Resolved
  deriving DecidableEq, Repr

/-- A cluster. -/
structure Cluster where
  power : Power
  trans : Option Transition
  /-- The launch placed on it and its index there (R224). -/
  placed : Option (Word × Nat)
  drain : Option Drain
  /-- A re-placed cluster whose restore handlers have not all ended: user dispatch is closed (R230). -/
  restoring : Bool
  resetAt : Nat
  /-- Cycles since the reset in which the arithmetic clock stood still, and since when it stands (R52, R266). -/
  stopped : Nat
  stoppedAt : Option Nat
  code : Tab Parcel
  spad : Mem
  bars : Vector Barrier 16
  gen : BitVec 64
  tiles : Vector Tile 8
  mxq : List MxEntry
  /-- The head command holds leave and runs. -/
  mxRun : Bool
  /-- The head command has run: what it waits for; words of its operands that the engine has read ahead; lines that it has
  not written (R125, R138, R187). -/
  mxDone : Option MxEnd
  mxViews : List NearView
  mxLate : List EngLine
  mxWait : List MxWaiter
  repl : Word
  /-- Cycles with WLV = 1 before the present wait, and since when the head waits for leave. -/
  wlvCycles : Nat
  wlvSince : Option Nat
  /-- Residue mismatches that nature has in store (R191). -/
  mxMiss : Nat
  cpq : List CpCmd
  cpWait : List (Nat × Nat)
  /-- Lines that the copy engine has not written (R125). -/
  cpLate : List EngLine
  nextCp : Nat
  wins : Vector Window 16
  clthr : BitVec 6
  /-- The endpoint cache, oldest entry first (R93). -/
  cache : List Cached
  ceCnt : BitVec 16
  ceThr : BitVec 16
  ueCnt : BitVec 16
  /-- The distributor counts the cluster as free, by the report that its die last made (R223). -/
  reportedFree : Bool
  deriving DecidableEq, Repr

/-- An entry of the message sump (R19): the receiving core, the cycle in which the message reached its network
interface, the message. -/
structure Spilled where
  core : Nat
  seen : Nat
  msg : Msg
  deriving DecidableEq, Repr

/-- Something parked in a sump (R239). -/
inductive Parked
  | trigger (m : Msg)
  /-- A CPFST request; pairs: of 8-byte elements (R211). -/
  | request (pid : BitVec 16) (step : Nat) (words : List (BitVec 64 × Word)) (pairs : Bool)
  deriving DecidableEq, Repr

/-- A die. -/
structure Die where
  /-- Governor credit as settled at a cycle (R270). -/
  credit : Int
  settled : Nat
  /-- Clusters whose head command asks for leave, in FIFO order. -/
  leaveQ : List Nat
  /-- The governor grants nothing: from 105 °C on, until below 100 °C (R271). -/
  warn : Bool
  trip : Bool
  temp : BitVec 8
  /-- The message sump, oldest entry first (R19). -/
  sump : List Spilled
  sumpQuota : Nat
  stageQuota : Nat
  /-- Parked data by handle (R239). -/
  parked : Tab Parked
  deriving DecidableEq, Repr

/-- A translation entry (R82). -/
structure TEntry where
  pid : BitVec 16
  big : Bool
  mrg : BitVec 4
  rd : Bool
  wr : Bool
  rmt : Bool
  vpn : Word
  chip : BitVec 22
  frame : BitVec 19
  shadow : BitVec 19
  rdie : BitVec 3
  deriving DecidableEq, Repr

/-- What a far store is part of (R334, R211). -/
inductive StoreKind
  | gst | gstd | gstmc | cpfst
  deriving DecidableEq, Repr

/-- A translated access: the home station, the merge code, the physical word addresses in the page's first frame, the
first frame and the shadow frame of the page, and whether the page has 1 GiB. -/
structure Placed where
  home : Nat
  code : Nat
  phys : List Nat
  frame : Nat
  shadow : Nat
  big : Bool
  deriving DecidableEq, Repr

/-- Where a far store is on its way (R101). -/
inductive StorePlace
  /-- At, or on its way to, the translating station. -/
  | translate (station : Nat)
  /-- Translated, at its home. -/
  | home (p : Placed)
  /-- A copy of a GSTMC that has to leave for another chip, and the station that translates it there (R141, R261). -/
  | away (chip : BitVec 22) (station : Nat)
  deriving DecidableEq, Repr

/-- A replay of a record, as REDLV named it (R364), and the chip on which it was issued. -/
structure ReplayRef where
  by_ : Issuer
  origin : BitVec 22
  addr : Nat
  rseq : Word
  hw : Option Word
  deriving DecidableEq, Repr

/-- A far store on its way (R101). -/
structure FarStore where
  kind : StoreKind
  by_ : Issuer
  key : BitVec 16
  seq : Word
  va : BitVec 64
  /-- Words: virtual address and data. -/
  words : List (BitVec 64 × Word)
  p : Bool
  /-- It is a GSTD, or a CPFST of 8-byte elements: each pair of words is one element (R109, R211). -/
  pairs : Bool
  /-- STALLMAX of its core (R117). -/
  stallmax : Word
  /-- Its place in the order in which accesses issue, or come from another chip (R141). -/
  born : Nat
  /-- The copy command that made it: cluster, command, block line. -/
  cmd : Option (Nat × Nat × Nat)
  place : StorePlace
  /-- It is translated a second time (R86). -/
  second : Bool
  /-- The chip it came from. -/
  from_ : Option (BitVec 22)
  replay : Option ReplayRef
  /-- It waits at a station that has no room (R117). -/
  stalled : Bool
  /-- The merge code of the entry that has refused it (R238), 15 for none. -/
  found : Nat := 15
  deriving DecidableEq, Repr

/-- A far-store request that its issuer counts as outstanding (R97, R102): the chips whose acceptance is awaited. For a
GSTMC also the store, and the chips that have not accepted it, each with the cause, and with the merge code found or, for an
unreachable one, the number of the packet (R119, R120, R238, R258). -/
structure Pending where
  core : Nat
  ctx : Nat
  pid : BitVec 16
  seq : Word
  tag : BitVec 16
  cmd : Option (Nat × Nat × Nat)
  chips : List (BitVec 22)
  store : Option FarStore
  failed : List (BitVec 22 × Nat × Word)
  deriving DecidableEq, Repr

/-- A replayed store that waits for its copies (R249, R364): the chips whose outcome is awaited, the highest outcome so
far, and for a GSTMC the chips that have not accepted it again. -/
structure ReplayWait where
  ref : ReplayRef
  store : FarStore
  chips : List (BitVec 22)
  worst : Nat
  failed : List (BitVec 22 × Nat × Word)
  deriving DecidableEq, Repr

/-- An acceptance notice on its way to an issuer on this chip (R101): the chip that accepted, and the cause of a fault
that counts as acceptance, 0 for none, with the merge code found. -/
structure Notice where
  core : Nat
  seq : Word
  chip : BitVec 22
  cause : Nat
  code : Nat
  deriving DecidableEq, Repr

/-- What a global read feeds (R332, R207). -/
inductive ReadFor
  | gld (id : Nat) (regs : List (Fin 16))
  /-- CPGET: cluster, command, and for each word of the global line the scratchpad byte offset that it fills. -/
  | copy (cluster cmd : Nat) (dst : List (Option Nat))
  /-- Another chip's read: its chip and its identifier. -/
  | remote (chip : BitVec 22) (id : Nat)
  /-- A line that the distributor reads on another chip. -/
  | dist (pid tag : BitVec 16) (va : BitVec 64)
  deriving DecidableEq, Repr

/-- The outcome of a read: data with poison, the cause of its failure, or an unreachable chip with the connection's
number and words (R258). -/
inductive ReadResult
  | data (words : List Word) (p : Bool)
  | fail (cause : Nat)
  | dead (info0 info1 : Word)
  deriving DecidableEq, Repr

/-- A global read on its way (R332). -/
structure GlobalRead where
  id : Nat
  by_ : Issuer
  va : BitVec 64
  nwords : Nat
  tag : BitVec 16
  dest : ReadFor
  /-- Its place in the order in which accesses issue, or come from another chip (R141). -/
  born : Nat
  /-- The translating station; none while the request is on another chip. -/
  station : Option Nat
  /-- Where it has been translated to. -/
  at_ : Option Placed
  /-- It came from another chip and is translated a second time (R86). -/
  second : Bool
  /-- It reads a line of an image, as raw data and so whatever RD holds (R228). -/
  raw : Bool
  deriving DecidableEq, Repr

/-- A reply to a global read (R332). -/
structure ReadReply where
  id : Nat
  by_ : Issuer
  va : BitVec 64
  tag : BitVec 16
  dest : ReadFor
  res : ReadResult
  deriving DecidableEq, Repr

/-- A staged word of a step (R104). -/
inductive StageVal
  /-- ISUM, FMAX, FMIN, BOR: the combined value; none while only poisoned stores came. -/
  | plain (v : Option Word)
  /-- FSUM and each component of CSUM: the exact sum in units of 2^-149 and the special flags (R108). -/
  | sum (acc : Int) (nan pinf ninf negz : Bool) (any : Bool)
  /-- LAST: value and key (R107). -/
  | last (v : Option (Word × (BitVec 16 × BitVec 22 × BitVec 16 × Word)))
  /-- UNIQ: the written bit (R110); the value stands in the non-current frame. -/
  | written
  /-- UNIQ store of step C + 2, held with its value (R110). -/
  | heldUniq (v : Word)
  deriving DecidableEq, Repr

/-- A staging entry (R104). -/
structure Stage where
  pid : BitVec 16
  step : Nat
  /-- Physical address of the word; for UNIQ the address in the page's first frame (FRAME). -/
  addr : Nat
  code : Nat
  val : StageVal
  p : Bool
  count : Nat
  conflict : Bool
  frame : Nat
  shadow : Nat
  big : Bool
  /-- It lies in the stage sump (R117). -/
  sump : Bool
  deriving DecidableEq, Repr

/-- A word as it was before a station applied a step to it, with the poison of its line (R103): process, step, physical address
(for UNIQ that in the first frame). -/
structure OldWord where
  pid : BitVec 16
  step : Nat
  addr : Nat
  val : Word
  p : Bool
  deriving DecidableEq, Repr

/-- A translation station (R81 to R88, R104 to R117). -/
structure Station where
  entries : List TEntry
  sel : Tab Bool
  staging : List Stage
  /-- What the applies have changed, oldest first: a read tagged with a step that has been applied is served from it (R103,
  assumption 85). -/
  past : List OldWord
  stallSince : Option Nat
  /-- Steps for which its SUMP record has been sent: PID, step (R117). -/
  sumpSent : List (BitVec 16 × Nat)
  seq : Word
  ce : Nat
  ue : Nat
  deriving DecidableEq, Repr

/-- A change that waits for the next boundary (R436). -/
inductive Deferred
  /-- Write or remove an entry at stations. -/
  | entry (stations : List Nat) (e : TEntry) (remove : Bool)
  /-- Write bytes of a map record or a table: physical word address and word. -/
  | words (ws : List (Nat × Word))
  /-- Write a multicast group. -/
  | group (num : Nat) (ws : List Word)
  deriving DecidableEq, Repr

/-- The state of a held or open step as this chip sees it (R114 to R124). -/
inductive StepPhase
  /-- Arrivals are being collected. -/
  | open_
  /-- The boundary is complete and the commit is held (R119). -/
  | held
  /-- The apply signal may reach the stations. -/
  | apply
  deriving DecidableEq, Repr

/-- A fault that holds a step (R119): the store's issuer rank, core, sequence number and word address. -/
structure HoldFault where
  step : Nat
  rank : BitVec 22
  core : BitVec 16
  seq : Word
  deriving DecidableEq, Repr

/-- The notice of a store that has faulted here and came from another chip: it leaves once the root of the domain knows that
the step is held (R119). -/
structure HeldNotice where
  pid : BitVec 16
  fault : HoldFault
  store : FarStore
  status : Nat
  deriving DecidableEq, Repr

/-- The step domain of a PID on this chip (R94 to R124). -/
structure Domain where
  /-- C, the last committed step; -1 before the first commit. -/
  c : Int
  phase : StepPhase
  /-- Step C + 1 has been aborted by STABT (R124), and C + 2. -/
  abortNow : Bool
  abortNext : Bool
  /-- Later steps that a decision of the root has aborted (R383). -/
  abortLater : List Nat
  /-- The step that C names was aborted. -/
  abt : Bool
  stretched : Word
  /-- The last report of C + 1 was delayed (R114, R266). -/
  late : Bool
  /-- The report of step 0 was held for a launch (R419). -/
  waited : Bool
  /-- Other chips that have a core in the domain, as they have told (R346, R436), and whether this chip has told of its own. -/
  live : List (BitVec 22)
  told : Bool
  faults : List HoldFault
  /-- Reports for a step. On this chip: step, core; step, 2^27 + core for one that a thermal trip has reset (R272); step, 2^25
  for a commit notice that has come; step, 2^25 + 1 for a step that a packet of the step tree has stretched (R258). At the root:
  step, 65,536 + chip for a chip that has reported its arrival, or 2^24 + chip for one that has no core in the domain; step,
  2^23 + chip for one whose stations have applied; step 0, 2^26 + chip for one without a core when another had reported
  (R419). -/
  reported : List (Nat × Nat)
  /-- The step that this chip has last reported up the tree, and whether it had a core in the domain. -/
  chipReported : Option (Nat × Bool)
  /-- A launch of the PID has been placed on this chip (R419). -/
  launched : Bool
  /-- The apply signal of C + 1 has reached the chip (R436). -/
  signalled : Bool
  /-- Stations that have applied step C + 1. -/
  applied : List Nat
  /-- Stations to which the apply signal has come and that have not ended. -/
  applying : List Nat
  /-- First frames of the 1 GiB UNIQ pages that this apply swaps (R87, R110). -/
  flips : List Nat
  /-- Arrivals of cores that a thermal trip has reset, not yet reported: step, core, delayed (R114, R272). -/
  ghosts : List (Nat × Nat × Bool)
  deferred : List Deferred
  /-- A table of the PID has been changed within the step otherwise than by a staged MAPW (R93). -/
  loose : Bool
  /-- Decisions that travel: request, and whether it came from this chip. -/
  decisions : List DecisionReq
  deriving DecidableEq, Repr

/-- What the image of a cluster holds in lines whose layout the spec leaves open (R228): its cores, the cluster, CYCLE. -/
structure Saved where
  cores : List Core
  cluster : Cluster
  cycle : Nat
  deriving DecidableEq, Repr

/-- A launch that the distributor holds (R220 to R231). -/
structure Launch where
  id : Word
  /-- The 32 words of the record (R216). -/
  rec_ : List Word
  /-- The argument block, words. -/
  args : List Word
  /-- PID and key of the placement. -/
  key : BitVec 16
  clusters : List Nat
  /-- Clusters not yet freed. -/
  left : List Nat
  /-- Launch clusters freed by a release before a pre-emption: they are not placed again. -/
  gone : List Nat
  /-- Requeued after a pre-emption (R230). -/
  saved : Bool
  /-- Launch clusters with an image in the save area (R228). -/
  images : List (Nat × Saved)
  /-- Being drained for pre-emption: it goes back to its level when every cluster is freed. -/
  preempting : Bool
  done : Nat
  /-- The step tag of the launch message (R17). -/
  tag : BitVec 16
  deriving DecidableEq, Repr

/-- A packet of the fabric (R254). -/
inductive Packet
  | msg (m : Msg)
  | store (st : FarStore)
  /-- Acceptance notice: issuer's physical core, process, tag, number, outcome (0 accepted, 1 too late, else the cause of
  the fault), the merge code found, and the replay that it answers. -/
  | accept (core : Nat) (pid tag : BitVec 16) (seq : Word) (status code : Nat) (replay : Option ReplayRef)
  | read (r : GlobalRead) (rdie : BitVec 3)
  | reply (r : ReadReply)
  /-- At most eight lines of a CPPUT (R254); last: the last of them. -/
  | lines (c : CpCmd) (last : Bool)
  /-- A line of a cluster's image for a page on another chip, with the die of its station there: raw data (R228). -/
  | raw (pid : BitVec 16) (va : BitVec 64) (rdie : BitVec 3) (ws : List Word)
  /-- The peer engine's answer to a CPPUT: cluster and command of the sender, status. -/
  | linesDone (cluster cmd : Nat) (status : Nat)
  /-- Arrival report of the sending chip for a step; late: it was delayed under R114; live: it has a core in the
  domain. -/
  | report (pid : BitVec 16) (step : Nat) (late live : Bool)
  /-- Apply signal of a step; late: its boundary is stretched. -/
  | apply (pid : BitVec 16) (step : Nat) (late : Bool)
  /-- The commit of a step is held (R119). -/
  | held (pid : BitVec 16) (step : Nat)
  /-- STABT binds a step (R124). -/
  | abort (pid : BitVec 16) (step : Nat)
  /-- Every station of the sending chip has applied a step; late: the packet was itself delayed (R258). -/
  | finished (pid : BitVec 16) (step : Nat) (late : Bool)
  /-- A commit notice; late: the boundary was stretched. -/
  | commit (pid : BitVec 16) (step : Nat) (late : Bool)
  /-- The sending chip has a core in the domain, or none (R436). -/
  | member (pid : BitVec 16) (live : Bool)
  /-- A record that REDLV replays on the chip of its reporter, with the endpoint that REDLV names (assumption 71), and the
  status of that. -/
  | replay (ws : List Word) (r : ReplayRef) (ep : Option (Resolved × Bool))
  | replayed (r : ReplayRef) (status : Nat)
  /-- A fault holds a step on the sending chip, or no longer holds it. -/
  | hold (pid : BitVec 16) (f : HoldFault) (add : Bool)
  /-- The root's answer to a hold: it is known. -/
  | holdKnown (pid : BitVec 16) (f : HoldFault)
  | decision (r : DecisionReq)
  /-- The root's answer to a decision of this chip: status, and whether it binds the step. -/
  | decided (r : DecisionReq) (status : Nat)
  /-- The exchange of R259 on a class: the sender's next number, and in reply the receiver's H. -/
  | exchange (cls : Fin 4) (reply : Bool) (v : Word)
  /-- A host control frame: a register number, and the word of a write (R264). -/
  | control (reg : Nat) (v : Option Word)
  /-- The acknowledgement of a number (R256); it takes no number itself. -/
  | ack
  deriving DecidableEq, Repr

/-- A packet that its sender keeps until it is acknowledged (R256). -/
structure Unacked where
  seq : Word
  resends : Nat
  sentAt : Nat
  /-- The gateway holds it: no port was up when it was last sent (R253). -/
  held : Bool
  pkt : Packet
  deriving DecidableEq, Repr

/-- A connection as its sender keeps it (R256, R258). -/
structure Conn where
  chip : BitVec 22
  cls : Fin 4
  next : Word
  unacked : List Unacked
  waiting : List Packet
  unreachable : Bool
  /-- The exchanges of R259, newest first: the sender's next number at the request, and H once it has been learned. -/
  learned : List (Word × Option Word)
  deriving DecidableEq, Repr

/-- A connection as its receiver keeps it (R256, R259): the highest number delivered, and packets held for a gap. -/
structure Recv where
  chip : BitVec 22
  cls : Fin 4
  h : Word
  held : List (Word × Packet)
  deriving DecidableEq, Repr

/-- A frame that reaches a gateway or the host port, which is port 18 (R254, R255, R262, R263). -/
structure Frame where
  port : Fin 19
  chip : BitVec 22
  cls : Fin 4
  seq : Word
  version : Nat
  ptype : Nat
  encrypted : Bool
  integrity : Bool
  supported : Bool
  pkt : Packet
  deriving DecidableEq, Repr

/-- Link settings of a fabric port or of the host port (R262). -/
structure PortCfg where
  encrypt : Bool
  key : List Byte
  vlan : Option (BitVec 12)
  deriving DecidableEq, Repr

/-- What waits for room to park a continuation or a CPFST request (R239): an abandoned packet, with its chip, class and number
(R258), or a message that a gateway diverts (R92). -/
inductive Later
  | abandoned (chip : BitVec 22) (cls : Fin 4) (seq : Word) (p : Packet)
  | divert (m : Msg)
  deriving DecidableEq, Repr

/-- What the gateway keeps of an abandoned packet under the number of its record (R259): the logical core or the group of a
message, the station of a far store, the connection, the packet's number. -/
structure Route where
  goal : BitVec 16
  group : Option (BitVec 12)
  station : Nat
  chip : BitVec 22
  cls : Fin 4
  seq : Word
  deriving DecidableEq, Repr

/-- What leaves for the host (R263). -/
inductive HostOut
  | msg (m : Msg)
  | record (ws : List Word)
  | status (st : Nat) (v : Word)
  | report (bytes : List Byte)
  deriving DecidableEq, Repr

/-- A port word on its way (R57): receiving context key, direction of the queue, word. -/
structure PortWord where
  ctx : Nat
  dir : Dir
  word : Word
  deriving DecidableEq, Repr

/-- A port place on its way back to a writer (R58): context key and direction of the writer's port. -/
structure PortPlace where
  ctx : Nat
  dir : Dir
  deriving DecidableEq, Repr

/-- Where nature strikes (R74, R76). -/
inductive MemPlace
  | tcm (core : Nat)
  | spad (cluster : Nat)
  | global
  deriving DecidableEq, Repr

/-- The model's own schedule: which agent moves next, and what comes from outside (assumption 2). -/
inductive Turn
  /-- A context issues. -/
  | issue (core ctx : Nat)
  /-- A context issues, and the stores of its instruction perform later (R125, R129). -/
  | issueLate (core ctx : Nat)
  /-- Store i of a context that has not performed performs; or the next write-back of its unwinding (R142). -/
  | perform (core ctx i : Nat)
  /-- The vector unit reads a word for a granted pass of entry k of a core's queue (R125). -/
  | vecRead (core k addr : Nat)
  /-- An engine of a cluster reads a scratchpad word ahead (R138): the matrix engine for its head command, or the copy engine
  for a command. -/
  | engineRead (cluster : Nat) (copy : Option Nat) (off : Nat)
  /-- Of line i that an engine has not written, word j performs, or with none left the sideband change (R125). -/
  | engineWrite (cluster : Nat) (copy : Bool) (i j : Nat)
  /-- A context reads a word ahead of the load that will name it (R125, R129). -/
  | readAhead (core ctx addr : Nat)
  /-- An operand of the next instruction of a context, or of the service thread as context 0, is in flight for n cycles
  (R45, R47). -/
  | latency (core ctx n : Nat)
  /-- An operation or event of the device. -/
  | event (i : Instr)
  /-- The same; what it reads and writes of local memory performs later (R125, R129, R142). -/
  | eventLate (i : Instr)
  /-- Cycles pass. -/
  | wait (n : Nat)
  /-- A bit error. -/
  | softError (at_ : MemPlace) (addr : Nat) (e : WordError)
  /-- Checker mismatches to come on a core's scalar instructions, and on its vector passes. -/
  | mismatch (core : Nat) (scalar vector : Nat)
  /-- Residue mismatches to come on a cluster's matrix engine. -/
  | residue (cluster : Nat) (n : Nat)
  /-- A frame reaches a fabric port or the host port. -/
  | frame (f : Frame)
  /-- A message from the host port that its checks have passed. -/
  | hostMsg (m : Msg)
  deriving DecidableEq, Repr

/-- The instruction being issued: who, where, its parcels, and the port words it has popped. -/
structure Cursor where
  core : Nat
  ctx : Nat
  pc : Nat
  next : Nat
  ip : Parcel
  first : Parcel
  popped : List Word
  /-- What the turn does to local memory performs later, a word at a time (R125, R129, R142). -/
  late : Bool
  deriving DecidableEq, Repr

/-- The distributor (R220 to R231). -/
structure Distributor where
  inbox : List Msg
  queue : List Launch
  placed : List Launch
  nextId : Word
  nextKey : BitVec 16
  seq : Word
  /-- Lines read on other chips for the launch in hand: process, tag, address; none while awaited. -/
  lines : List ((BitVec 16 × BitVec 16 × BitVec 64) × Option ReadResult)
  deriving DecidableEq, Repr

/-- The registers of host control (R264, R269) and of boot (R273). -/
structure HostRegs where
  hlost : Word
  hsecerr : Word
  hunreach : BitVec 22
  hdrop : Word
  clu : BitVec 13
  cmd : BitVec 2
  watt : BitVec 13
  stage : Nat
  /-- The firmware images that have been loaded, with their signatures; none for one that has been discarded (R273). -/
  images : List (Option (List Byte × List Byte))
  digests : List (List Byte)
  /-- End of boot has been written (stage 5). -/
  booted : Bool
  deriving DecidableEq, Repr

/-- The machine: one LX40 package. -/
structure State where
  -- what the spec gives the machine
  ctxs : Tab Ctx
  cores : Tab Core
  clusters : Tab Cluster
  dies : Tab Die
  stations : Tab Station
  domains : Tab Domain
  chip : BitVec 22
  gmem : Mem
  /-- Multicast groups (R260): PID × 4096 + number; words M0 to M3. -/
  groups : Tab (List Word)
  mapws : List MapwReq
  dist : Distributor
  /-- Record counter RSEQ (R237), gateway message counter (R437), park handles. -/
  rseq : Word
  gwSeq : Word
  handle : Nat
  /-- Records that wait for the host (R236), oldest first. -/
  hostRecs : List (List Word)
  links : BitVec 18
  host : HostRegs
  portCfg : Tab PortCfg
  /-- What the gateway keeps of an abandoned packet beside its record, by RSEQ. -/
  routes : Tab Route
  /-- What waits for room to be parked (R239). -/
  later : List Later
  conns : List Conn
  recvs : List Recv
  /-- Live PIDs (R12). -/
  live : List (BitVec 16)
  readId : Nat
  -- in flight
  net : List Msg
  stores : List FarStore
  pending : List Pending
  replays : List ReplayWait
  notices : List Notice
  reads : List GlobalRead
  replies : List ReadReply
  portWords : List PortWord
  portPlaces : List PortPlace
  deliveries : List CpCmd
  /-- CPPUT lines of which further packets are to come (R254). -/
  parts : List CpCmd
  adds : List DrainAdd
  frames : List Frame
  heldNotices : List HeldNotice
  -- the model's own fields (assumptions 1, 2, 10, 11)
  now : Nat
  turns : List Turn
  cur : Cursor
  focus : Nat
  free : Nat
  hostOut : List HostOut
  wireOut : List (Fin 18 × BitVec 22 × Fin 4 × Word × Packet)
  deriving DecidableEq, Repr

/-- A machine that stops with a fault. -/
inductive Fault
  /-- An instruction of the cores was to run on a context that runs no activation. Raised by every meaning of such an
  instruction; no issue turn leads to it. Safe: no claim about a running context meets it. -/
  | notRunning
  deriving DecidableEq, Repr

/-- A machine that refuses an instruction. -/
inductive Refusal
  /-- No meaning yet; raised by exec alone. Safe: the model stops. -/
  | notModelled (mnemonic : String)
  deriving DecidableEq, Repr

/-- A memory whose every byte is 0, every line empty (R73). -/
def Mem.zero : Mem := ⟨[], [], []⟩

/-- A context after cluster reset. R61: the queues are empty. Registers without a reset value hold 0 (assumption 3). -/
def Ctx.reset : Ctx where
  g := Vector.replicate 16 0
  pa := Vector.replicate 8 0
  ps := Vector.replicate 8 0
  lk := 0
  fflags := 0
  chi := 0
  act := none
  undo := none
  handing := []
  waiting := []
  sbuf := []
  inq := Vector.replicate 4 []
  outq := Vector.replicate 4 0
  lateStores := []
  views := []
  lateLoads := []
  busy := 0

/-- A core after cluster reset (R63, R65, R241, R245, R94). The launch-loaded fields hold 0 before a launch
(assumption 4). -/
def Core.reset : Core where
  tcm := Mem.zero
  lcore := 0
  rank := 0
  pid := 0
  pkey := 0
  buddef := 0x0010_0000
  budmax := 0x1000_0000
  redlim := 2
  mxretry := 3
  vweight := 1
  stquota := 1
  stallmax := 1000
  svcore := 0
  svchip := 0
  chkcnt := 0
  qctx := 1
  qdir := 0
  qovf := false
  fqBase := 0
  fqNlm1 := 0
  fqEn := false
  fqHead := 0
  fqTail := 0
  fqCnt := 0
  fqEntry := 0
  fqPrio := 0
  ringSeq := 0
  mlim := 1024
  tlim := 2
  tcnt := 0
  ret := false
  seq := 0
  farSeq := 0
  buf := []
  s := 0
  k := 0
  q := 1
  arrived := []
  late := []
  joined := none
  last := 7
  issuedAt := none
  servedAt := none
  serviceBusy := 0
  iter := none
  stream := none
  vslot := none
  vwait := []
  lanes := []
  vpoison := Vector.replicate 8 0
  vl := 64
  vq := []
  cw := 0
  parkWait := []
  mism := 0
  vmism := 0

/-- A tile in its reset state (R172). -/
def Tile.reset : Tile := ⟨0, false, [], 0, 0⟩

/-- A cluster after chip reset: OFF with the content of a cluster reset (R266). The generator holds the constant of
R156 before a launch (assumption 5). -/
def Cluster.reset : Cluster where
  power := .off
  trans := none
  placed := none
  drain := none
  restoring := false
  resetAt := 0
  stopped := 0
  stoppedAt := some 0
  code := []
  spad := Mem.zero
  bars := Vector.replicate 16 ⟨0, 0, 0⟩
  gen := 0x9E37_79B9_7F4A_7C15
  tiles := Vector.replicate 8 Tile.reset
  mxq := []
  mxRun := false
  mxDone := none
  mxViews := []
  mxLate := []
  mxWait := []
  repl := 0
  wlvCycles := 0
  wlvSince := none
  mxMiss := 0
  cpq := []
  cpWait := []
  cpLate := []
  nextCp := 0
  wins := Vector.replicate 16 ⟨0, 0, false, 0, 0, 0, 0⟩
  clthr := 8
  cache := []
  ceCnt := 0
  ceThr := 256
  ueCnt := 0
  reportedFree := false

/-- A die after chip reset (R270, R271); the sump quotas are 0 until the host sets them (assumption 6). -/
def Die.reset : Die := ⟨0, 0, [], false, false, 0, [], 0, 0, []⟩

/-- A station after chip reset (R82, R87). -/
def Station.reset : Station := ⟨[], [], [], [], none, [], 0, 0, 0⟩

/-- A domain before its first commit (R94). -/
def Domain.reset : Domain where
  c := -1
  phase := .open_
  abortNow := false
  abortNext := false
  abortLater := []
  abt := false
  stretched := 0
  late := false
  waited := false
  live := []
  told := false
  faults := []
  reported := []
  chipReported := none
  launched := false
  signalled := false
  applied := []
  applying := []
  flips := []
  ghosts := []
  deferred := []
  loose := false
  decisions := []

/-- The machine after chip reset (R266, R273). Chip number and global memory contents are named by assumptions 7
and 8. -/
def State.reset : State where
  ctxs := []
  cores := []
  clusters := []
  dies := []
  stations := []
  domains := []
  chip := 0
  gmem := Mem.zero
  groups := []
  mapws := []
  dist := ⟨[], [], [], 0, 1, 0, []⟩
  rseq := 0
  gwSeq := 0
  handle := 0
  hostRecs := []
  links := 0
  host := ⟨0, 0, 0, 0, 0, 2, 900, 1, [], [], false⟩
  portCfg := []
  routes := []
  later := []
  conns := []
  recvs := []
  live := []
  readId := 0
  net := []
  stores := []
  pending := []
  replays := []
  notices := []
  reads := []
  replies := []
  portWords := []
  portPlaces := []
  deliveries := []
  parts := []
  adds := []
  frames := []
  heldNotices := []
  now := 0
  turns := []
  cur := ⟨0, 0, 0, 0, 0, 0, [], false⟩
  focus := 0
  free := 0
  hostOut := []
  wireOut := []

end Sys2Proof.Machine
end

