-- ==== Sys2Proof/Machine/Tables.lean ====
section
/-! DEFINITION. Sys2Proof/Machine/Tables.lean: tables and their operations, the shape of the package (R8, R9), and
the accessors of the state's units. -/

namespace Sys2Proof.Machine

/-- What an exec function answers. -/
abbrev Out := Host.Outcome State Fault Refusal

/-- The entry of a key. -/
def Tab.get {α : Type} : Tab α → Nat → Option α
  | [], _ => none
  | (j, v) :: r, k => if j = k then some v else Tab.get r k

/-- Write the entry of a key, keeping the keys rising. -/
def Tab.set {α : Type} : Tab α → Nat → α → Tab α
  | [], k, v => [(k, v)]
  | (j, w) :: r, k, v => if j = k then (k, v) :: r else if k < j then (k, v) :: (j, w) :: r else (j, w) :: Tab.set r k v

/-- Remove the entry of a key. -/
def Tab.erase {α : Type} (t : Tab α) (k : Nat) : Tab α := t.filter (fun e => e.1 ≠ k)

/-- What a key reads as, in a table that does not list the value dflt. -/
def Tab.look {α : Type} (dflt : α) (t : Tab α) (k : Nat) : α := (t.get k).getD dflt

/-- Write a key in a table that does not list the value dflt: writing dflt removes the entry. -/
def Tab.put {α : Type} [DecidableEq α] (dflt : α) (t : Tab α) (k : Nat) (v : α) : Tab α :=
  if v = dflt then t.erase k else t.set k v

/-- Keys strictly rising, no entry equal to dflt: the canonical form. -/
abbrev Tab.Canon {α : Type} (dflt : α) (t : Tab α) : Prop :=
  t.Pairwise (fun a b => a.1 < b.1) ∧ ∀ e ∈ t, e.2 ≠ dflt

/-- Replace the first element that satisfies p. -/
def updFirst {α : Type} (p : α → Bool) (f : α → α) : List α → List α
  | [] => []
  | x :: r => if p x then f x :: r else x :: updFirst p f r

/-- Remove the first element that satisfies p. -/
def dropFirst {α : Type} (p : α → Bool) : List α → List α
  | [] => []
  | x :: r => if p x then r else x :: dropFirst p r

/-- The i-th element and the rest. -/
def takeAt {α : Type} : List α → Nat → Option (α × List α)
  | [], _ => none
  | x :: r, 0 => some (x, r)
  | x :: r, i + 1 => (takeAt r i).map fun (y, l) => (y, x :: l)

/-! ## The shape of the package (R8, R9, R11) -/

/-- Cores of the package. -/
def coreCount : Nat := 40960
/-- Clusters of the package. -/
def clusterCount : Nat := 5120

/-- x of a physical core number. -/
def coreX (core : Nat) : Nat := core % 128
/-- y of a physical core number. -/
def coreY (core : Nat) : Nat := core / 128
/-- Physical core number of a coordinate. -/
def coreAt (x y : Nat) : Nat := 128 * y + x
/-- Die of a core. -/
def dieOfCore (core : Nat) : Nat := 2 * (coreY core / 80) + coreX core / 64
/-- Cluster number in the package, 640 × die + cluster. -/
def clusterOf (core : Nat) : Nat :=
  640 * dieOfCore core + (16 * (coreY core % 80 / 2) + coreX core % 64 / 4)
/-- Core number within its cluster. -/
def coreIn (core : Nat) : Nat := 4 * (coreY core % 2) + coreX core % 4
/-- Die of a cluster. -/
def dieOfCluster (cl : Nat) : Nat := cl / 640
/-- Core c of a cluster. -/
def coreOfCluster (cl c : Nat) : Nat :=
  let die := cl / 640
  let l := cl % 640
  coreAt (64 * (die % 2) + 4 * (l % 16) + c % 4) (80 * (die / 2) + 2 * (l / 16) + c / 4)
/-- The cores of a cluster, in ascending core number. -/
def coresOf (cl : Nat) : List Nat := (List.range 8).map (coreOfCluster cl)

end Sys2Proof.Machine

namespace Sys2Proof

/-- Number of a direction (R65). -/
def Dir.idx : Dir → Fin 4
  | .w => 0 | .e => 1 | .n => 2 | .s => 3
/-- Direction of a number. -/
def dirOf (n : Nat) : Dir := if n = 0 then .w else if n = 1 then .e else if n = 2 then .n else .s
/-- The direction that faces back (R57). -/
def Dir.back : Dir → Dir
  | .w => .e | .e => .w | .n => .s | .s => .n

end Sys2Proof

namespace Sys2Proof.Machine

/-- The neighbour of a core (R9); none at the package edge. -/
def neighbour (core : Nat) (d : Dir) : Option Nat :=
  let x := coreX core
  let y := coreY core
  match d with
  | .w => if x = 0 then none else some (coreAt (x - 1) y)
  | .e => if x = 127 then none else some (coreAt (x + 1) y)
  | .n => if y = 319 then none else some (coreAt x (y + 1))
  | .s => if y = 0 then none else some (coreAt x (y - 1))

/-! ## The units of the state -/

namespace State

/-- A context of a core. -/
def ctx (s : State) (core c : Nat) : Ctx := Tab.look Ctx.reset s.ctxs (8 * core + c)
/-- Write a context. -/
def setCtx (s : State) (core c : Nat) (x : Ctx) : State := { s with ctxs := s.ctxs.set (8 * core + c) x }
/-- Change a context. -/
def updCtx (s : State) (core c : Nat) (f : Ctx → Ctx) : State := s.setCtx core c (f (s.ctx core c))
/-- A core. -/
def core (s : State) (c : Nat) : Core := Tab.look Core.reset s.cores c
/-- Write a core. -/
def setCore (s : State) (c : Nat) (x : Core) : State := { s with cores := s.cores.set c x }
/-- Change a core. -/
def updCore (s : State) (c : Nat) (f : Core → Core) : State := s.setCore c (f (s.core c))
/-- A cluster. -/
def cluster (s : State) (c : Nat) : Cluster := Tab.look Cluster.reset s.clusters c
/-- Write a cluster. -/
def setCluster (s : State) (c : Nat) (x : Cluster) : State := { s with clusters := s.clusters.set c x }
/-- Change a cluster. -/
def updCluster (s : State) (c : Nat) (f : Cluster → Cluster) : State := s.setCluster c (f (s.cluster c))
/-- A die. -/
def die (s : State) (d : Nat) : Die := Tab.look Die.reset s.dies d
/-- Change a die. -/
def updDie (s : State) (d : Nat) (f : Die → Die) : State := { s with dies := s.dies.set d (f (s.die d)) }
/-- A station. -/
def station (s : State) (i : Nat) : Station := Tab.look Station.reset s.stations i
/-- Change a station. -/
def updStation (s : State) (i : Nat) (f : Station → Station) : State :=
  { s with stations := s.stations.set i (f (s.station i)) }
/-- The domain of a PID. -/
def domain (s : State) (pid : BitVec 16) : Domain := Tab.look Domain.reset s.domains pid.toNat
/-- Change a domain. -/
def updDomain (s : State) (pid : BitVec 16) (f : Domain → Domain) : State :=
  { s with domains := s.domains.set pid.toNat (f (s.domain pid)) }

/-- The activation of a context. -/
def act (s : State) (core c : Nat) : Option Act := (s.ctx core c).act
/-- Change the activation of a context, when it runs one. -/
def updAct (s : State) (core c : Nat) (f : Act → Act) : State :=
  s.updCtx core c fun x => { x with act := x.act.map f }

/-- Cycles of the arithmetic clock of a cluster since its reset: it stands still in IDLE and OFF (R52, R266). -/
def clusterCycle (s : State) (cl : Nat) : Nat :=
  let x := s.cluster cl
  x.stoppedAt.getD s.now - x.resetAt - x.stopped

/-- CYCLE of a core (R63). -/
def cycle (s : State) (core : Nat) : Nat := s.clusterCycle (clusterOf core)

end State

end Sys2Proof.Machine
end

