-- ==== Sys2Proof/Machine/Memory.lean ====
section
/-! DEFINITION. Sys2Proof/Machine/Memory.lean: bytes, words and lines of a memory (R1, R71), its canonical form, the
local address map (R66), and the places of memory in the state. -/

namespace Sys2Proof.Machine

/-- The sideband that an unlisted line has: empty, not poisoned. -/
def Side.zero : Side := ⟨false, false⟩

namespace Mem

/-- The byte at an address. -/
def byte (m : Mem) (a : Nat) : Byte := Tab.look 0 m.bytes a
/-- Write one byte. -/
def setByte (m : Mem) (a : Nat) (b : Byte) : Mem := { m with bytes := Tab.put 0 m.bytes a b }
/-- The word at an address, little-endian (R1). -/
def word (m : Mem) (a : Nat) : Word := m.byte (a + 3) ++ m.byte (a + 2) ++ m.byte (a + 1) ++ m.byte a
/-- Write the bytes of a word, little-endian. -/
def setWordBytes (m : Mem) (a : Nat) (v : Word) : Mem :=
  (((m.setByte a (v.extractLsb' 0 8)).setByte (a + 1) (v.extractLsb' 8 8)).setByte (a + 2)
    (v.extractLsb' 16 8)).setByte (a + 3) (v.extractLsb' 24 8)
/-- The error that a word holds. -/
def err (m : Mem) (a : Nat) : Option WordError := Tab.get m.errs a
/-- Put an error into a word. -/
def setErr (m : Mem) (a : Nat) (e : WordError) : Mem := { m with errs := m.errs.set a e }
/-- Remove the error of a word. -/
def clearErr (m : Mem) (a : Nat) : Mem := { m with errs := m.errs.erase a }
/-- A word store: 32 data bits with fresh check bits, so an error that the word held is gone (R74). -/
def setWord (m : Mem) (a : Nat) (v : Word) : Mem := (m.setWordBytes a v).clearErr a
/-- The sideband of a line number. -/
def line (m : Mem) (l : Nat) : Side := Tab.look Side.zero m.side l
/-- Write the sideband of a line. -/
def setLine (m : Mem) (l : Nat) (x : Side) : Mem := { m with side := Tab.put Side.zero m.side l x }
/-- The word at an address becomes the k words that follow. -/
def setWords (m : Mem) (a : Nat) : List Word → Mem
  | [] => m
  | v :: vs => (m.setWord a v).setWords (a + 4) vs
/-- n words from an address. -/
def words (m : Mem) (a n : Nat) : List Word := (List.range n).map fun i => m.word (a + 4 * i)
/-- The 32 words of a line. -/
def lineWords (m : Mem) (l : Nat) : List Word := m.words (128 * l) 32

/-- The sideband change of a line that an engine has written (R71): full; the poison, of a whole line in place of what it was. -/
def closeSide (m : Mem) (l : Nat) (whole p : Bool) : Mem := m.setLine l ⟨true, if whole then p else (m.line l).p || p⟩
/-- What an engine writes of a line performs: the words, then the sideband change (R125). -/
def engLine (m : Mem) (x : EngLine) : Mem :=
  let m := x.words.foldl (fun (m : Mem) w => m.setWord w.1 w.2) m
  x.side.elim m fun y => m.closeSide x.line y.1 y.2
/-- Line l holds an uncorrectable word. -/
def lineBad (m : Mem) (l : Nat) : Bool := (List.range 32).any fun i => m.err (128 * l + 4 * i) == some .uncorrectable
/-- The poison of a line as an engine has it that has read words of the line ahead (R138): as it was with the first of them,
or set by an uncorrectable word. -/
def poisonSeen (m : Mem) (views : List NearView) (l : Nat) : Bool :=
  match views.find? fun v => v.addr / 128 == l with
  | some v => v.p || m.lineBad l
  | none => (m.line l).p

/-- The canonical form of a memory: no byte listed that is 0, no line that is empty and not poisoned, keys rising. -/
abbrev wf (m : Mem) : Prop :=
  Tab.Canon (0 : Byte) m.bytes ∧ Tab.Canon Side.zero m.side ∧ m.errs.Pairwise (fun a b => a.1 < b.1)

end Mem

/-! ## The local address map (R66) -/

/-- Bytes a to a + n - 1 lie in TCM or in the scratchpad. -/
def localOk (a n : Nat) : Bool := decide (a + n ≤ 0x6000) || decide (0x100000 ≤ a ∧ a + n ≤ 0x180000)

/-- The memory that holds a local address of a core. -/
def placeOf (core a : Nat) : MemPlace := if a < 0x100000 then .tcm core else .spad (clusterOf core)

/-- The byte offset of a local address in its memory. -/
def offsetOf (a : Nat) : Nat := if a < 0x100000 then a else a - 0x100000

namespace State

/-- A memory of the machine. -/
def mem (s : State) : MemPlace → Mem
  | .tcm c => (s.core c).tcm
  | .spad c => (s.cluster c).spad
  | .global => s.gmem

/-- Write a memory of the machine. -/
def setMem (s : State) (p : MemPlace) (m : Mem) : State :=
  match p with
  | .tcm c => s.updCore c fun x => { x with tcm := m }
  | .spad c => s.updCluster c fun x => { x with spad := m }
  | .global => { s with gmem := m }

/-- Change a memory of the machine. -/
def updMem (s : State) (p : MemPlace) (f : Mem → Mem) : State := s.setMem p (f (s.mem p))

/-- The byte at a local address of a core: the model's read of one byte. -/
def localByte (s : State) (core a : Nat) : Byte := (s.mem (placeOf core a)).byte (offsetOf a)
/-- The word at a local address of a core. -/
def localWord (s : State) (core a : Nat) : Word := (s.mem (placeOf core a)).word (offsetOf a)
/-- The sideband of the line at a local address. -/
def localSide (s : State) (core a : Nat) : Side := (s.mem (placeOf core a)).line (offsetOf a / 128)
/-- Write the sideband of the line at a local address. -/
def setLocalSide (s : State) (core a : Nat) (x : Side) : State :=
  s.updMem (placeOf core a) fun m => m.setLine (offsetOf a / 128) x
/-- A word store to a local address. -/
def setLocalWord (s : State) (core a : Nat) (v : Word) : State :=
  s.updMem (placeOf core a) fun m => m.setWord (offsetOf a) v

end State

end Sys2Proof.Machine
end

