-- ==== Sys2Proof/Machine/Messages.lean ====
section
/-! DEFINITION. Sys2Proof/Machine/Messages.lean: header words (R15), handler words, endpoint maps and resolution
(R89 to R92), records (R235 to R238), and how a message leaves its unit (R253, R256, R258). -/

namespace Sys2Proof.Machine

namespace Msg

/-- Header word H0. -/
def h0 (m : Msg) : Word := m.dkey ++ m.dcore
/-- Header word H1. -/
def h1 (m : Msg) : Word := (0 : BitVec 10) ++ m.dchip
/-- Header word H2. -/
def h2 (m : Msg) : Word := (0 : BitVec 13) ++ m.sctx ++ m.score
/-- Header word H3. -/
def h3 (m : Msg) : Word := (0 : BitVec 10) ++ m.schip
/-- Header word H4. -/
def h4 (m : Msg) : Word :=
  (0 : BitVec 1) ++ m.utag ++ BitVec.ofBool m.rel ++ BitVec.ofBool m.ans ++ m.prio ++ m.entry
/-- Header word H5. -/
def h5 (m : Msg) : Word := m.stag ++ m.pid
/-- Header word H7. -/
def h7 (m : Msg) : Word :=
  (0 : BitVec 18) ++ BitVec.ofBool m.sv ++ BitVec.ofBool m.div ++ BitVec.ofBool m.fwd ++ m.rcnt ++ m.kind ++ m.nw
/-- Header word Hk (R15). -/
def header (m : Msg) (k : Fin 8) : Word :=
  match k with
  | 0 => m.h0 | 1 => m.h1 | 2 => m.h2 | 3 => m.h3 | 4 => m.h4 | 5 => m.h5 | 6 => m.seq | 7 => m.h7
/-- Payload word i; words beyond NW read 0. -/
def pay (m : Msg) (i : Nat) : Word := m.body.getD i 0
/-- A message that takes three slots: a continuation or a fault record (R18, R235). -/
def long (m : Msg) : Bool := m.nw == 26
/-- Arrival slots it takes (R18). -/
def slots (m : Msg) : Nat := if m.long then 3 else 1
/-- Bytes of its sump entry (R19). -/
def sumpBytes (m : Msg) : Nat := if m.long then 192 else 64
/-- A fault record (R235): KIND 4 with NW = 26. -/
def isRecord (m : Msg) : Bool := m.kind == 4 && m.long
/-- Handled by the service thread (R21). -/
def forService (m : Msg) : Bool := (m.kind == 2 || m.kind == 3) && !m.div
/-- Handled by context 7 (R21): KIND 4, DIV set, SV set, and kinds 5 and up, which are diverted. -/
def forSupervisor (m : Msg) : Bool := !m.forService && (m.kind == 4 || m.div || m.sv || decide (5 ≤ m.kind.toNat))
/-- User-bound (R21). -/
def forUser (m : Msg) : Bool := !m.forService && !m.forSupervisor
/-- Counts toward the 48 call slots (R18): a call that is not supervisor-bound. -/
def isCall (m : Msg) : Bool := !m.ans && !m.forSupervisor
/-- Connection class (R256): answers and fault records 1, calls 0. -/
def connClass (m : Msg) : Fin 4 := if m.ans || m.isRecord then 1 else 0
/-- Two messages are of one stream at their receiver (R19, R24); one that has been forwarded has left its stream (R39). -/
def sameStream (m n : Msg) : Bool :=
  !m.fwd && !n.fwd && m.schip == n.schip && m.score == n.score && m.ans == n.ans && m.prio == n.prio && m.pid == n.pid

/-- Two messages for one receiver that keep their order: of one stream (R24), or AM* and TDEC commands of one core (R137). -/
def ordered (m n : Msg) : Bool :=
  m.sameStream n || (m.forService && n.forService && m.schip == n.schip && m.score == n.score && m.pid == n.pid)

/-- A message from its header words H0 to H7 and payload. -/
def ofWords (h0 h1 h2 h3 h4 h5 h6 h7 : Word) (body : List Word) : Msg where
  dcore := h0.extractLsb' 0 16
  dkey := h0.extractLsb' 16 16
  dchip := h1.extractLsb' 0 22
  score := h2.extractLsb' 0 16
  sctx := h2.extractLsb' 16 3
  schip := h3.extractLsb' 0 22
  entry := h4.extractLsb' 0 16
  prio := h4.extractLsb' 16 6
  ans := h4.getLsbD 22
  rel := h4.getLsbD 23
  utag := h4.extractLsb' 24 7
  pid := h5.extractLsb' 0 16
  stag := h5.extractLsb' 16 16
  seq := h6
  nw := h7.extractLsb' 0 5
  kind := h7.extractLsb' 5 4
  rcnt := h7.extractLsb' 9 2
  fwd := h7.getLsbD 11
  div := h7.getLsbD 12
  sv := h7.getLsbD 13
  body := body
  old0 := 0
  old1 := 0
  goal := 0
  copy := none

/-- Put a handler word into H4 (R15). -/
def withHandler (m : Msg) (hw : Word) : Msg :=
  { m with entry := hw.extractLsb' 0 16, prio := hw.extractLsb' 16 6, ans := hw.getLsbD 22, rel := hw.getLsbD 23,
           utag := hw.extractLsb' 24 7 }

end Msg

/-- A message of zeros, on which others are built. -/
def Msg.blank : Msg := Msg.ofWords 0 0 0 0 0 0 0 0 []

/-! ## UNIT codes of records (R237) -/

/-- A context. -/
def unitContext : Nat := 0
/-- Service thread. -/
def unitService : Nat := 1
/-- Matrix engine. -/
def unitMatrix : Nat := 2
/-- Copy engine. -/
def unitCopy : Nat := 3
/-- Vector unit. -/
def unitVector : Nat := 4
/-- Station. -/
def unitStation : Nat := 5
/-- Gateway. -/
def unitGateway : Nat := 6
/-- Distributor. -/
def unitDistributor : Nat := 7
/-- Network interface. -/
def unitNetwork : Nat := 8

/-! ## Endpoint maps (R91, R92) -/

/-- Physical address of the map record of a PID. -/
def mapRecordAt (pid : BitVec 16) : Nat := 0xC01FE00000 + 32 * pid.toNat

namespace State

/-! ## Check codes of global memory (R76) -/

/-- The code word that holds a global byte: its first address, and its length in bytes. -/
def codeUnit (a : Nat) : Nat × Nat := if 0xC000000000 ≤ a then (a - a % 8, 8) else (a - a % 64, 64)

/-- The error of the code word that holds a global byte; a word written since it arose is sound again (assumption 39). -/
def unitErr (s : State) (a : Nat) : Option WordError :=
  let (b, n) := codeUnit a
  let es := (List.range (n / 4)).filterMap fun i => s.gmem.err (b + 4 * i)
  if es.contains .uncorrectable then some .uncorrectable else es.head?

/-- The first byte of the code word that a read of a global word finds in error: its own, or in HBM the first half-line of
its line, which keeps F/E and P. -/
def errorAt (s : State) (a : Nat) : Option (Nat × WordError) :=
  let at_ (a : Nat) : Option (Nat × WordError) := (s.unitErr a).map fun e => ((codeUnit a).1, e)
  match at_ a with
  | some (b, .uncorrectable) => some (b, .uncorrectable)
  | e => if 0xC000000000 ≤ a then e else
    match at_ (a - a % 128) with
    | some (b, .uncorrectable) => some (b, .uncorrectable)
    | f => e.or f

/-- A global word cannot be used. -/
def unusable (s : State) (a : Nat) : Bool := (s.errorAt a).elim false fun e => e.2 == .uncorrectable

/-- Word i of the map record of a PID. -/
def mapWord (s : State) (pid : BitVec 16) (i : Nat) : Word := s.gmem.word (mapRecordAt pid + 4 * i)
/-- The map record of a PID is valid. -/
def mapValid (s : State) (pid : BitVec 16) : Bool := (s.mapWord pid 7).getLsbD 0
/-- A supervisor PID (R91). -/
def isSup (s : State) (pid : BitVec 16) : Bool := s.mapValid pid && (s.mapWord pid 7).getLsbD 1
/-- CTAB of a PID. -/
def ctab (s : State) (pid : BitVec 16) : Nat :=
  (s.mapWord pid 0).toNat + 2 ^ 32 * ((s.mapWord pid 1).extractLsb' 0 8).toNat
/-- KTAB of a PID. -/
def ktab (s : State) (pid : BitVec 16) : Nat :=
  (s.mapWord pid 2).toNat + 2 ^ 32 * ((s.mapWord pid 3).extractLsb' 0 8).toNat
/-- NRANK of a PID. -/
def nrank (s : State) (pid : BitVec 16) : Nat := ((s.mapWord pid 4).extractLsb' 0 23).toNat
/-- The chip-table entry of a rank as it stands; none when it is not valid. -/
def chipEntry (s : State) (pid : BitVec 16) (rank : Nat) : Option (BitVec 22) :=
  if s.mapValid pid && decide (rank < s.nrank pid) then
    let e := s.gmem.word (s.ktab pid + 4 * rank)
    if e.getLsbD 31 then some (e.extractLsb' 0 22) else none
  else none
/-- A word of the map record of a PID cannot be used (R76). -/
def mapUnusable (s : State) (pid : BitVec 16) : Bool := (List.range 8).any fun i => s.unusable (mapRecordAt pid + 4 * i)
/-- SVCORE and SVCHIP of a PID's map record; open where the record cannot be used (R76). -/
def mapSv (s : State) (pid : BitVec 16) : BitVec 16 × BitVec 22 :=
  if s.mapUnusable pid then
    ((Config.openCore s.now pid coreCount).elim 0xFFFF Prod.fst, (Config.openChip s.now pid (2 ^ 22)).getD 0)
  else ((s.mapWord pid 5).extractLsb' 0 16, (s.mapWord pid 6).extractLsb' 0 22)
/-- The chip-table entry of a rank as a read gives it: open where the words that tell it cannot be used (R76). -/
def entryRead (s : State) (pid : BitVec 16) (rank : Nat) : Option (BitVec 22) :=
  if s.mapUnusable pid || s.unusable (s.ktab pid + 4 * rank) then Config.openChip s.now pid rank else s.chipEntry pid rank
/-- The physical chip of a rank (R92); undefined while the PID's tables are loose (R93), or where the words that tell it
cannot be used (R76). -/
def chipOf (s : State) (pid : BitVec 16) (rank : Nat) : Option (BitVec 22) :=
  if (s.domain pid).loose then Config.openChip s.now pid rank else s.entryRead pid rank
/-- The core-table entry of a logical core as it stands; none for key 0 or a number no core has. -/
def coreEntry (s : State) (pid : BitVec 16) (lcore : Nat) : Option (BitVec 16 × BitVec 16) :=
  let e := s.gmem.word (s.ctab pid + 4 * lcore)
  let dcore : BitVec 16 := e.extractLsb' 0 16
  let key : BitVec 16 := e.extractLsb' 16 16
  if key = 0 then none
  else if dcore.toNat < coreCount || dcore == 0xFFFD then some (dcore, key) else none
/-- The physical core and key of a logical core on this chip (R92); undefined as the chip of a rank is. -/
def coreOfL (s : State) (pid : BitVec 16) (lcore : Nat) : Option (BitVec 16 × BitVec 16) :=
  if (s.domain pid).loose || s.mapUnusable pid || s.unusable (s.ctab pid + 4 * lcore) then (Config.openCore s.now pid lcore).filter fun x => decide (x.1.toNat < coreCount)
  else s.coreEntry pid lcore
/-- An address lies in the core table or the chip table of a PID (R91). -/
def inTables (s : State) (pid : BitVec 16) (a : Nat) : Bool :=
  s.mapValid pid && (decide (s.ctab pid ≤ a ∧ a < s.ctab pid + 4 * coreCount)
    || decide (s.ktab pid ≤ a ∧ a < s.ktab pid + 4 * s.nrank pid))
/-- Words of global memory have been written: the tables of a PID with a member of its domain that hold one of them are
loose until its next boundary (R93). -/
def touchTables (s : State) (as : List Nat) : State :=
  let pids := (s.cores.filterMap fun e => if e.2.joined.isSome then some e.2.pid else none).eraseDups
  (pids.filter fun p => as.any (s.inTables p)).foldl (fun s p => s.updDomain p fun d => { d with loose := true }) s
/-- This chip's rank for a PID: the first valid entry of its chip table that names it. -/
def ownRank (s : State) (pid : BitVec 16) : Option Nat :=
  (List.range (s.nrank pid)).find? fun k => s.entryRead pid k == some s.chip

end State

namespace State

/-- Resolve (logical core, rank) of a PID under R92. LCORE 0xFFFF is the distributor of the chip (R90). -/
def resolve (s : State) (pid : BitVec 16) (lcore : BitVec 16) (rank : BitVec 22) : Resolved :=
  match s.chipOf pid rank.toNat with
  | none => .dead
  | some chip =>
    if lcore = 0xFFFF then (if chip = s.chip then .here 0xFFFF 0 else .far chip lcore)
    else if 40960 ≤ lcore.toNat then .dead
    else if chip = s.chip then
      match s.coreOfL pid lcore.toNat with
      | some (c, k) => .here c k
      | none => .dead
    else .far chip lcore

/-- Resolve an endpoint that an instruction of a core names (R90): 0xFFFE stands for SVEP and SVEPH. Also SV. -/
def resolveFrom (s : State) (core : Nat) (lcore : BitVec 16) (rank : BitVec 22) : Resolved × Bool :=
  -- an SVEP of LCORE 0xFFFF, which would name the distributor, resolves to nothing (assumption 63)
  let c := s.core core
  if lcore = 0xFFFE then
    (if c.svcore = 0xFFFF then .dead else s.resolve c.pid c.svcore c.svchip, true)
  else (s.resolve c.pid lcore rank, false)

end State

/-- Fill the destination of a message (R90, R92); unchanged when the endpoint is dead. -/
def Msg.to (m : Msg) (own : BitVec 22) (r : Resolved) : Msg :=
  match r with
  | .here c k => { m with dcore := c, dkey := k, dchip := own }
  | .far chip l => { m with dcore := 0, dkey := 0, dchip := chip, goal := l }
  | .dead => m

/-! ## Records (R237, R238) -/

/-- The record words W0 to W25 (R237). -/
def Report.words (r : Report) (host : Bool) (rcore : BitVec 16) (rrank : BitVec 22) (rseq : Word) : List Word :=
  let bit (b : Bool) (n : Nat) : Nat := if b then 2 ^ n else 0
  [ w32 (r.cause + 2 ^ 8 * r.cls + 2 ^ 11 * r.sub + bit r.rst 16 + bit r.parked 17 + bit host 18 + 2 ^ 19 * r.npop),
    r.stag ++ r.pid,
    w32 (rcore.toNat + 2 ^ 16 * r.rctx + 2 ^ 19 * r.unit + 2 ^ 23 * r.uidx),
    (0 : BitVec 10) ++ rrank, rseq, w32 (r.pc % 65536 + 2 ^ 16 * (r.orig % 65536)), r.info0, r.info1 ]
  ++ (r.body ++ List.replicate 18 0).take 18

/-- BODY holding a message (R238): H2 to H7, payload words 0 to 7, popped words, parked handle. -/
def bodyOfMsg (m : Msg) (popped : List Word) (handle : Word) : List Word :=
  [m.h2, m.h3, m.h4, m.h5, m.seq, m.h7] ++ (List.range 8).map m.pay
    ++ (popped ++ [0, 0, 0]).take 3 ++ [handle]

/-- A record of zeros for a process and tag. -/
def Report.base (cause cls : Nat) (pid stag : BitVec 16) : Report :=
  ⟨cause, cls, 0, false, false, 0, pid, stag, 0, 0, 0, 0, 0, 0, 0, []⟩

/-- Set the HOST bit of a record (R236). -/
def setHostBit : List Word → List Word
  | [] => []
  | w :: r => (w ||| 0x40000) :: r

/-- The exchange of R259 on a connection has begun and has not ended: its packets wait. -/
def Conn.exchanging (c : Conn) : Bool := c.learned.head?.elim false fun x => x.2.isNone

/-- For whom a unit of a core acts, as its records say (R237): the context, 0 for an engine or the service thread; UNIT; the PID and
the tag of the activation, the message or the store. -/
structure Behalf where
  ctx : Nat
  unit : Nat
  pid : BitVec 16
  stag : BitVec 16

namespace State

/-- Put a record into the base die's buffer for the host, or drop and count it when 1,024 wait (R236). -/
def toHost (s : State) (ws : List Word) : State :=
  if s.hostRecs.length < 1024 then { s with hostRecs := s.hostRecs ++ [setHostBit ws] }
  else { s with host := { s.host with hlost := if s.host.hlost = 0xFFFFFFFF then s.host.hlost else s.host.hlost + 1 } }

/-- Take the next RSEQ of the chip (R237). -/
def nextRseq (s : State) : Word × State := (s.rseq, { s with rseq := s.rseq + 1 })

/-- Take the next SEQ of a core's network interface (R16). -/
def nextSeq (s : State) (core : Nat) : Word × State :=
  ((s.core core).seq, s.updCore core fun c => { c with seq := c.seq + 1 })

/-- Park data in the sump of a die under a fresh handle (R239). -/
def park (s : State) (die : Nat) (x : Parked) : Word × State :=
  let h := s.handle + 1
  (w32 h, { (s.updDie die fun d => { d with parked := d.parked.set h x }) with handle := h })

/-! ## How packets leave (R253, R256) -/

/-- The connection to a chip in a class, as its sender keeps it. -/
def conn (s : State) (chip : BitVec 22) (cls : Fin 4) : Conn :=
  (s.conns.find? fun c => c.chip == chip && c.cls == cls).getD ⟨chip, cls, 0, [], [], false, []⟩

/-- Write a connection. -/
def setConn (s : State) (c : Conn) : State :=
  if s.conns.any fun x => x.chip == c.chip && x.cls == c.cls then
    { s with conns := s.conns.map fun x => if x.chip == c.chip && x.cls == c.cls then c else x }
  else { s with conns := s.conns ++ [c] }

/-- The ports that are up, in ascending number (R253). -/
def portsUp (s : State) : List (Fin 18) := (List.finRange 18).filter fun i => s.links.getLsbD i.val

/-- The port of a connection: index (DCHIP + 7 × class) mod U of the ports that are up; none while U = 0 (R253). -/
def portOf (s : State) (chip : BitVec 22) (cls : Fin 4) : Option (Fin 18) :=
  s.portsUp[(chip.toNat + 7 * cls.val) % s.portsUp.length]?

/-- A packet goes onto the wire; with no port up the gateway holds it and its timer runs (R253). -/
def onWire (s : State) (chip : BitVec 22) (cls : Fin 4) (seq : Word) (p : Packet) : State :=
  match s.portOf chip cls with
  | none => s
  | some i => { s with wireOut := s.wireOut ++ [(i, chip, cls, seq, p)] }

/-- An AM* or TDEC command for another chip waits for one that its core sent there before, in the other class, and that has
not been delivered: the two classes travel on two connections (R137). -/
def mustFollow (s : State) (chip : BitVec 22) (cls : Fin 4) (p : Packet) : Bool :=
  match p with
  | .msg m =>
    let c := s.conn chip (if cls = 0 then 1 else 0)
    m.forService && (c.unacked.map Unacked.pkt ++ c.waiting).any fun
      | .msg n => n.forService && n.goal == m.goal && m.ordered n && decide (0 < (m.seq - n.seq).toNat ∧ (m.seq - n.seq).toNat < 2 ^ 31)
      | _ => false
  | _ => false

/-- A packet of a connection gets its number and goes (R256); the gateway holds it while no port is up (R253). -/
def transmit (s : State) (chip : BitVec 22) (cls : Fin 4) (p : Packet) : State :=
  let c := s.conn chip cls
  (s.setConn { c with
    next := c.next + 1, unacked := c.unacked ++ [⟨c.next, 0, s.now, s.portsUp.isEmpty, p⟩] }).onWire chip cls c.next p

/-- A connection may send its next packet: fewer than 1,024 are unacknowledged, and no exchange of R259 goes on (R256). -/
def mayTransmit (s : State) (chip : BitVec 22) (cls : Fin 4) (p : Packet) : Bool :=
  let c := s.conn chip cls
  decide (c.unacked.length < 1024) && !c.exchanging && !s.mustFollow chip cls p

/-- A gateway takes a packet of a connection (R256): it goes, or it waits behind those that wait. -/
def gateway (s : State) (chip : BitVec 22) (cls : Fin 4) (p : Packet) : State :=
  let c := s.conn chip cls
  if c.waiting.isEmpty && s.mayTransmit chip cls p then s.transmit chip cls p
  else s.setConn { c with waiting := c.waiting ++ [p] }

/-- A record goes to an endpoint or to the host (R235, R236); also to the host where its chip is unreachable. -/
def routeLast (s : State) (m : Msg) (ws : List Word) (r : Resolved) : State :=
  match r with
  | .dead => s.toHost ws
  | .here c k => { s with net := s.net ++ [{ m with dcore := c, dkey := k, dchip := s.chip, body := ws }] }
  | .far chip l =>
    if (s.conn chip 1).unreachable then s.toHost ws
    else s.gateway chip 1 (.msg { m with dcore := 0, dkey := 0, dchip := chip, goal := l, body := ws })

/-- The message of a record (R235): KIND 4, NW = 26. H4 is 0 (assumption 15). -/
def recordMsg (score : BitVec 16) (sctx : BitVec 3) (schip : BitVec 22) (pid stag : BitVec 16) (seq : Word) : Msg :=
  { Msg.blank with score := score, sctx := sctx, schip := schip, pid := pid, stag := stag, seq := seq, nw := 26,
                   kind := 4 }

/-- The supervisor endpoint of a PID, as this chip's map record names it (R91); 0xFFFF there names none
(assumption 63). -/
def supervisorOf (s : State) (pid : BitVec 16) : Resolved :=
  let (svc, svr) := s.mapSv pid
  if !s.mapValid pid || svc = 0xFFFF then .dead else s.resolve pid svc svr

/-- The units that number their own messages (R437). The spec does not count the gateways: this chip numbers the messages
of all of them with one counter (assumption 64). -/
inductive Unit
  | station (i : Nat)
  | gateway
  | distributor

/-- Take the next number of a unit (R437). -/
def unitSeq (s : State) : Unit → Word × State
  | .station i => ((s.station i).seq, s.updStation i fun x => { x with seq := x.seq + 1 })
  | .gateway => (s.gwSeq, { s with gwSeq := s.gwSeq + 1 })
  | .distributor => (s.dist.seq, { s with dist := { s.dist with seq := s.dist.seq + 1 } })

/-- This chip's rank for a PID in a header or a record; 0 when the chip table does not name this chip. -/
def rankField (s : State) (pid : BitVec 16) : BitVec 22 := BitVec.ofNat 22 ((s.ownRank pid).getD 0)

/-- Bytes of the message sump of a die in use: entries, parked continuations, and on die 0 what the distributor
keeps (R19, R220, R221, R239). -/
def sumpUsed (s : State) (d : Nat) : Nat :=
  let x := s.die d
  (x.sump.map fun e => e.msg.sumpBytes).sum
    + 192 * (x.parked.filter fun e => match e.2 with | .trigger _ => true | .request _ _ _ _ => false).length
    + (if d = 0 then
        64 * ((s.dist.inbox.filter fun m => m.kind == 5).length - 1) + ((s.dist.queue ++ s.dist.placed).map fun l => 128 + 4 * l.args.length).sum
       else 0)

/-- The message sump of a die has room for a parked continuation (R239). -/
def parkRoom (s : State) (d : Nat) : Bool := decide (s.sumpUsed d + 192 ≤ (s.die d).sumpQuota)

/-- The record body of a message; a continuation is parked in the sump of a die (R239). -/
def msgBody (s : State) (die : Nat) (m : Msg) (popped : List Word) : List Word × Bool × State :=
  if m.long then
    let (h, s) := s.park die (.trigger m)
    (bodyOfMsg m popped h, true, s)
  else (bodyOfMsg m popped 0, false, s)

/-- The gateway keeps where an abandoned packet was to go, under the number of its record (R259). -/
def keepRoute (s : State) (r : Route) : State := { s with routes := s.routes.set s.rseq.toNat r }

/-- A unit reports (R235): to SVCORE and SVCHIP of the PID's map record, or to the host (R236). Every record takes its number,
also one for the host (R437). route: how it leaves. -/
def unitReportBy (route : State → Msg → List Word → Resolved → State) (s : State) (u : Unit) (host : Bool) (r : Report) : State :=
  let (rseq, s) := s.nextRseq
  let rank := s.rankField r.pid
  let ws := r.words false 0xFFFF rank rseq
  let (seq, s) := s.unitSeq u
  if host then s.toHost ws else route s (recordMsg 0xFFFF 0 rank r.pid r.stag seq) ws (s.supervisorOf r.pid)

/-- A message for which no way exists becomes a DEAD record of a unit, CLASS 4, holding the message (R258, R435). Where the
record's own chip is unreachable it goes to the host (assumption 80). -/
def deadRecord (s : State) (u : Unit) (unit uidx : Nat) (m : Msg) (info0 info1 : Word) : State :=
  let (body, parked, s) := s.msgBody 0 m []
  unitReportBy routeLast s u false { Report.base 17 4 m.pid m.stag with
    unit := unit, uidx := uidx, info0 := info0, info1 := info1, body := body, parked := parked }

/-- INFO1 of a record of R258: destination chip and class. -/
def connInfo (chip : BitVec 22) (cls : Fin 4) : Word := w32 (chip.toNat + 2 ^ 22 * cls.val)

/-- Something waits for room to park a continuation or a CPFST request (R239). -/
def waitRoom (s : State) (x : Later) : State := { s with later := s.later ++ [x] }

/-- The fate of a message whose packet is abandoned (R258): its DEAD record, once a continuation finds room (R239). -/
def abandonMsg (s : State) (chip : BitVec 22) (cls : Fin 4) (seq : Word) (m : Msg) : State :=
  if m.long && !s.parkRoom 0 then s.waitRoom (.abandoned chip cls seq (.msg m))
  else (s.keepRoute ⟨m.goal, m.copy, 0, chip, cls, seq⟩).deadRecord .gateway 6 0 m seq (connInfo chip cls)

/-- A record of a process goes to an endpoint or to the host (R235, R236); for a connection marked unreachable it meets the fate of
R258 at once, as any new packet: a DEAD record that holds it. -/
def routeRecord (s : State) (m : Msg) (ws : List Word) (r : Resolved) : State :=
  match r with
  | .far chip l =>
    let c := s.conn chip 1
    if c.unreachable then (s.setConn { c with next := c.next + 1 }).abandonMsg chip 1 c.next
      { m with dcore := 0, dkey := 0, dchip := chip, goal := l, body := ws }
    else s.routeLast m ws r
  | r => s.routeLast m ws r

/-- A core reports to an endpoint, or to the host when host is set or the endpoint does not resolve (R235, R236). The record takes
a number of the core, also one for the host (R437). -/
def coreReportTo (s : State) (core : Nat) (host : Bool) (target : Resolved) (r : Report) : State :=
  let c := s.core core
  let (rseq, s) := s.nextRseq
  let ws := r.words false c.lcore c.rank rseq
  let (seq, s) := s.nextSeq core
  if host then s.toHost ws
  else s.routeRecord (recordMsg c.lcore (BitVec.ofNat 3 r.rctx) c.rank r.pid r.stag seq) ws target

/-- A core reports for its contexts, its service thread and its engines (R235): to SVEP and SVEPH. -/
def coreReport (s : State) (core : Nat) (host : Bool) (r : Report) : State :=
  s.coreReportTo core host (s.resolveFrom core 0xFFFE 0).1 r

/-- A unit reports (R235, R236). -/
def unitReport (s : State) (u : Unit) (host : Bool) (r : Report) : State := unitReportBy routeRecord s u host r

/-- An answer that a core forms and that no longer resolves (R435): a DEAD record of the sending unit, which holds it under its
number (R437), to the supervisor endpoint of the answer's PID. R235 names SVEP and SVEPH for what a core reports, R435 that
of the PID (assumption 79). -/
def answerDead (s : State) (core unit : Nat) (a : Msg) (lcore : BitVec 16) (rank : BitVec 22) : State :=
  let (q, s) := s.nextSeq core
  s.coreReportTo core false (s.supervisorOf a.pid) { Report.base 17 4 a.pid a.stag with
    unit := unit, info0 := (0 : BitVec 16) ++ lcore, info1 := (0 : BitVec 10) ++ rank, body := bodyOfMsg { a with seq := q } [] 0 }

/-- A message leaves its unit: into the mesh, or to a gateway. A packet for a connection marked unreachable meets
the fate of R258 at once; its number is the one it would have had. -/
def send (s : State) (m : Msg) : State :=
  if m.dchip = s.chip then { s with net := s.net ++ [m] }
  else
    let c := s.conn m.dchip m.connClass
    if c.unreachable then (s.setConn { c with next := c.next + 1 }).abandonMsg m.dchip m.connClass c.next m
    else s.gateway m.dchip m.connClass (.msg m)

/-- A message of a core leaves it: it takes SEQ (R16) and goes. -/
def sendFrom (s : State) (core : Nat) (m : Msg) : State :=
  let (q, s) := s.nextSeq core
  s.send { m with seq := q }

/-- An answer that a unit of the issuing core forms (R31, R190, R215, R437): from the core itself, SCTX 0, with the
tag of the command, to the issuing core. -/
def completion (s : State) (by_ : Issuer) (hw : Word) (body : List Word) : State :=
  let m : Msg := { (Msg.blank.withHandler hw) with
    ans := true, score := by_.lcore, schip := by_.rank, pid := by_.pid, stag := by_.tag,
    nw := BitVec.ofNat 5 body.length, dcore := BitVec.ofNat 16 by_.core, dkey := by_.key, dchip := s.chip,
    body := body }
  s.sendFrom by_.core m

/-- A unit of a core acts for a context: for the activation that it runs. An engine, or the network interface, whose command R237 does
not name, acts for the core in its current step (assumption 97). -/
def onBehalf (s : State) (core c unit : Nat) : Behalf :=
  match s.act core c with
  | some a => ⟨c, unit, a.trig.pid, a.trig.stag⟩
  | none => ⟨c, unit, (s.core core).pid, (s.core core).s.extractLsb' 0 16⟩

/-- An event of class 3 that a core reports (R240); what context 7 raises goes to the host (R236). -/
def coreEvent (s : State) (core : Nat) (b : Behalf) (code : Nat) (info0 info1 : Word) : State :=
  s.coreReport core (b.ctx == 7) { Report.base code 3 b.pid b.stag with
    rctx := if b.unit = 0 then b.ctx else 0, unit := b.unit, info0 := info0, info1 := info1 }

/-- An event that a unit of the chip sends to the host (R240, R437). -/
def hostEvent (s : State) (u : Unit) (unit uidx code : Nat) (info0 info1 : Word) : State :=
  s.unitReport u true { Report.base code 3 0 0 with unit := unit, uidx := uidx, info0 := info0, info1 := info1 }

/-- A unit's event for a PID (R240). -/
def unitEvent (s : State) (u : Unit) (unit uidx code : Nat) (pid stag : BitVec 16) (info0 info1 : Word) : State :=
  s.unitReport u false { Report.base code 3 pid stag with unit := unit, uidx := uidx, info0 := info0, info1 := info1 }

end State

end Sys2Proof.Machine
end

