-- ==== Sys2Proof/Machine/Check.lean ====
section
/-! DEFINITION. Sys2Proof/Machine/Check.lean: what a station does with an error of global memory (R76, R247), resolutions, whose
reads of the tables are checked (R76, R92), and the answers of units that resolve an endpoint (R435). -/

namespace Sys2Proof.Machine

namespace State

/-! ## Errors of global memory (R76, R247) -/

/-- The station of the home of a frame (R78). -/
def homeOf (frame : Nat) : Nat :=
  if frame < 0x60000 then 4 * (frame / 49152) + frame % 49152 % 4 else (frame - 0x60000) % 32

/-- A station counts a corrected error; at every 4,096th the host learns of it (R247). -/
def stationCorrected (s : State) (i : Nat) : State :=
  let n := (s.station i).ce + 1
  let s := s.updStation i fun x => { x with ce := n }
  if n % 4096 = 0 then s.hostEvent (.station i) unitStation i 36 (w32 n) (w32 unitStation) else s

/-- An uncorrectable global word: its line is poisoned, and the process's supervisor and the host learn of it (R76). -/
def stationUncorrectable (s : State) (i : Nat) (pid tag : BitVec 16) (a : Nat) : State :=
  let s := { s with gmem := s.gmem.setLine (a / 128) { s.gmem.line (a / 128) with p := true } }
  let s := s.updStation i fun x => { x with ue := x.ue + 1 }
  let lo := w32 (a % 2 ^ 32)
  let hi := w32 (a / 2 ^ 32)
  (s.unitEvent (.station i) unitStation i 37 pid tag lo hi).hostEvent (.station i) unitStation i 37 lo hi

/-- The code word at an address is written back sound (R76). -/
def repair (s : State) (a : Nat) : State :=
  { s with gmem := (List.range ((codeUnit a).2 / 4)).foldl (fun (m : Mem) k => m.clearErr ((codeUnit a).1 + 4 * k)) s.gmem }

/-- The check of a global word that a station reads (R76): the state after it, and whether the word is unusable. -/
def checkGlobal (s : State) (i : Nat) (pid tag : BitVec 16) (a : Nat) : State × Bool :=
  match s.errorAt a with
  | none => (s, false)
  | some (b, .corrected) => ((s.repair b).stationCorrected i, false)
  | some (_, .uncorrectable) => (s.stationUncorrectable i pid tag a, true)

/-! ## Resolutions (R91, R92) -/

/-- A resolution reads the tables of a PID through their homes (R76, R91, R92): the words of the map record and, where the record is
valid and can be used, of the rank's entry in the chip table and of the logical core's in the core table. What they say is
read by `chipOf` and `coreOfL`. -/
def noteTables (s : State) (pid tag : BitVec 16) (rank : Option Nat) (lcore : Option Nat) : State :=
  let more : List Nat := if s.mapUnusable pid || !s.mapValid pid then [] else
    ((rank.toList.filter fun k => decide (k < s.nrank pid)).map fun k => s.ktab pid + 4 * k) ++ lcore.toList.map fun l => s.ctab pid + 4 * l
  (((List.range 8).map fun i => mapRecordAt pid + 4 * i) ++ more).foldl
    (fun (s : State) a => (s.checkGlobal (homeOf (a / 2 ^ 21)) pid tag a).1) s

/-- The table words that the resolution of (logical core, rank) reads are checked: the core table's where the chip is this one. -/
def noteEntries (s : State) (pid tag : BitVec 16) (lcore : BitVec 16) (rank : BitVec 22) : State :=
  s.noteTables pid tag (some rank.toNat)
    (if s.chipOf pid rank.toNat == some s.chip && decide (lcore.toNat < 40960) then some lcore.toNat else none)

/-- A resolution of (logical core, rank) under R92, its reads checked. -/
def lookUp (s : State) (pid tag : BitVec 16) (lcore : BitVec 16) (rank : BitVec 22) : State × Resolved :=
  (s.noteEntries pid tag lcore rank, s.resolve pid lcore rank)

/-- The supervisor endpoint of a PID, as `supervisorOf`, its reads checked. -/
def lookUpSupervisor (s : State) (pid tag : BitVec 16) : State × Resolved :=
  let (svc, svr) := s.mapSv pid
  (if !s.mapValid pid || svc = 0xFFFF then s.noteTables pid tag none none else s.noteEntries pid tag svc svr, s.supervisorOf pid)

/-! ## Answers (R435) -/

/-- An answer of a unit to a logical endpoint (R435): unresolved, it becomes a DEAD record of the unit. -/
def answerTo (s : State) (u : Unit) (unit : Nat) (pid : BitVec 16) (lcore : BitVec 16) (rank : BitVec 22)
    (tag : BitVec 16) (hw : Word) (body : List Word) : State :=
  let m : Msg := { (Msg.blank.withHandler hw) with
    ans := true, score := 0xFFFF, schip := s.rankField pid, pid := pid, stag := tag,
    nw := BitVec.ofNat 5 body.length, body := body }
  let (q, s) := s.unitSeq u
  let m := { m with seq := q }
  match s.lookUp pid tag lcore rank with
  | (s, .dead) => s.deadRecord u unit 0 m ((0 : BitVec 16) ++ lcore) ((0 : BitVec 10) ++ rank)
  | (s, r) => s.send (m.to s.chip r)

/-- An answer that a unit of a core forms for a logical endpoint (R435): it goes out under the core's number, or becomes a DEAD record
of that unit. -/
def answerFrom (s : State) (core unit : Nat) (m : Msg) (lcore : BitVec 16) (rank : BitVec 22) : State :=
  match s.lookUp m.pid m.stag lcore rank with
  | (s, .dead) => s.answerDead core unit m lcore rank
  | (s, r) => s.sendFrom core (m.to s.chip r)

end State

end Sys2Proof.Machine
end

