-- ==== Sys2Proof/WellFormed.lean ====
section
/-! DEFINITION. Sys2Proof/WellFormed.lean: which terms of Instr stand for an instruction that R274 to R285 can
encode: register names by their kind (R51, R278), immediates by their ranges (R279), modifiers by their row (R280). -/

namespace Sys2Proof

/-- A name that an instruction may write (R50, R51): not cc, not bd. -/
def Reg.writable : Reg → Bool
  | .cc => false
  | .bd => false
  | _ => true

/-- Not a port. -/
def Reg.notPort : Reg → Bool
  | .port _ => false
  | _ => true

/-- A name written after issue (R404, R406): g0 to g15, lk or zr. -/
def Reg.late (r : Reg) : Bool := r.writable && r.notPort

/-- A destination of GLD (R332): g0 to g15 or zr. -/
def Reg.gz : Reg → Bool
  | .g _ => true
  | .zr => true
  | _ => false

/-- An even register or zr, for the reductions with X = 1 (R404). -/
def Reg.evenOrZr : Reg → Bool
  | .g n => n.val % 2 == 0
  | .zr => true
  | _ => false

/-- An integer within 2^n of either side of 0, as a two's complement field of n + 1 bits. -/
def fitsSigned (n : Nat) (z : Int) : Bool := decide (-(2 ^ n : Int) ≤ z ∧ z < 2 ^ n)

/-- An integer from 0 to 2^n - 1. -/
def fitsUnsigned (n : Nat) (z : Int) : Bool := decide (0 ≤ z ∧ z < 2 ^ n)

/-- The arithmetic rounding modes, 0 to 4 (R151). -/
def Rnd.arith : Rnd → Bool
  | .sr => false
  | _ => true

/-- The formats that the 3-bit element type names, codes 0 to 7 (R143). -/
def Fmt.short : Fmt → Bool
  | .i16 => false
  | .i4 => false
  | _ => true

/-- The stream types of R55: a floating-point stream rounds in a mode 0 to 4. -/
def StreamTy.wf : StreamTy → Bool
  | .int _ => true
  | .fp r => r.arith

/-- A scalar memory operand: two IMX give the offset 24 bits (R53). -/
def MemOp.wf (m : MemOp) : Bool := fitsSigned 23 m.off

/-- A vector memory operand: two IMX give the offset 23 bits (R407). -/
def MemOp.vwf (m : MemOp) : Bool := fitsSigned 22 m.off

/-- The operand of VGTH and VSCT: even, and one IMX at most when an MDX stands beside RGX and PGX (R274, R407). -/
def MemOp.gwf (m : MemOp) (t : Fmt) : Bool :=
  (m.off % 2 == 0) && (if t = .fp32 then fitsSigned 22 m.off else fitsSigned 11 m.off)

/-- The immediate of BFX and BFI (R305): pos + 32 × (len - 1) with pos + len at most 32. -/
def bitFieldOk (imm : Int) : Bool := decide (0 ≤ imm ∧ imm ≤ 1023 ∧ imm % 32 + imm / 32 + 1 ≤ 32)

/-- The instruction can be encoded. Operations of the device carry no operand limits here. -/
def Instr.wf : Instr → Bool
  | .br off | .call off => fitsSigned 30 off
  | .bz _ off | .bnz _ off => fitsSigned 27 off
  | .geth d _ => d.writable
  | .add d _ _ | .sub d _ _ | .and d _ _ | .or d _ _ | .xor d _ _ | .shl d _ _ | .shr d _ _ | .sra d _ _
  | .mul d _ _ | .mulh d _ _ | .mulhu d _ _ | .min d _ _ | .max d _ _ | .minu d _ _ | .maxu d _ _
  | .slt d _ _ | .sltu d _ _ | .seq d _ _ | .divu d _ _ | .remu d _ _ | .clz d _ | .popc d _ | .sel d _ _ => d.writable
  | .bfx d _ imm => d.writable && bitFieldOk imm
  | .bfi d _ imm => d.late && bitFieldOk imm
  | .addi d _ imm | .andi d _ imm | .ori d _ imm | .xori d _ imm | .slti d _ imm => d.writable && fitsSigned 24 imm
  | .shli d _ imm | .shri d _ imm | .srai d _ imm => d.writable && fitsUnsigned 5 imm
  | .ldi d imm => d.writable && fitsSigned 27 imm
  | .ldhi d imm => d.late && fitsUnsigned 16 imm
  | .ldw d m | .ldh d m | .ldhu d m | .ldb d m | .ldbu d m | .tstf d m | .tstp d m => d.writable && m.wf
  | .lds d m => d.late && m.wf
  | .ldd _ m | .std _ m => m.wf
  | .stw _ m | .sth _ m | .stb _ m => m.wf
  | .setf m | .sete m | .clrp m => m.wf
  | .pstr _ imm => fitsSigned 15 imm
  | .padd _ imm => fitsSigned 27 imm
  | .pget d _ _ => d.writable
  | .sadd _ _ _ _ t | .smul _ _ _ _ t | .sfma _ _ _ _ t => t.wf
  | .fadd d _ _ r | .fsub d _ _ r | .fmul d _ _ r | .ffma d _ _ r | .fdiv d _ _ r => d.writable && r.arith
  | .fsqrt d _ r | .fexp2 d _ r | .flog2 d _ r | .frcp d _ r | .frsq d _ r => d.writable && r.arith
  | .fmin d _ _ | .fmax d _ _ | .feq d _ _ | .flt d _ _ | .fle d _ _ => d.writable
  | .fclass d _ => d.writable
  | .ftoi d _ r _ | .itof d _ r _ => d.writable && r.arith
  | .fcvt d _ _ _ dst _ => d.writable && dst.short
  | .vadd _ _ _ m | .vsub _ _ _ m | .vmul _ _ _ m | .vfma _ _ _ m | .vmin _ _ _ m | .vmax _ _ _ m
  | .vscan _ _ m => m.rnd.arith
  | .vcvt _ _ _ _ dst _ => dst.short
  | .vexp2 _ _ r _ | .vlog2 _ _ r _ | .vrcp _ _ r _ => r.arith
  | .vrsum d _ m x | .vrmax d _ m x => d.late && m.rnd.arith && (!x || d.evenOrZr)
  | .vld _ m _ t | .vst _ m t => m.vwf && t.short
  | .vgth _ m _ _ t | .vsct _ m _ t => m.gwf t && t.short
  | .vmvg d _ _ => d.late
  | .gld d _ => d.gz
  | .nadd d _ _ | .ncas d _ _ | .nswp d _ _ => d.writable
  | .bara d _ => d.late
  | .barw d _ | .bari d _ => d.notPort
  | .trap code | .brk code => fitsUnsigned 31 code
  | .csrr d csr => d.writable && fitsUnsigned 28 csr
  | .csrw _ csr => fitsUnsigned 28 csr
  | .pwrq d _ => d.writable
  | .pqdataRead d | .cycleRead d => d.writable
  | _ => true

/-- The instruction is one that the decoder yields: an instruction of the cores, and not one of the five CSR rows
that the table lists beside CSRR and CSRW, whose words decode to csrr or csrw (R316). -/
def Instr.coded : Instr → Bool
  | .pqdataRead _ | .pqdataWrite _ | .cycleRead _ | .fqbaseWrite _ | .fqheadWrite _
  | .messageArrival _ | .sumpReturn _ _ | .dispatch _ _ | .budgetExpiry _ _ | .releaseResume _ _ | .iterativeCommit _
  | .portWordArrival _ | .portPlaceReturn _ | .globalReadReply _ | .atomicAtOwner _ | .taskDecrement _
  | .farStoreTranslation _ | .farStoreAccept _ | .acceptanceNotice _ | .stallLimit _ | .readServe _ | .arrivalReport _
  | .applySignal _ _ | .applyDone _ _ | .commitNotice _ | .stepDecision | .mapwExecute | .copyRequest _
  | .copyReadReturn _ | .cpputDelivery _ | .copyCompletion _ _ | .waitTimeout _ _ | .leaveGrant _ | .matrixCommandEnd _
  | .drainAddArrival _ | .drainAddApply _ | .passGrant _ | .vectorResultWrite _ | .launchRequest | .placement
  | .preemption | .releaseCluster | .releaseLaunch | .preemptLaunch | .removeLaunch | .drainPhase _
  | .freeClusterReport _ | .supervisorQueueWrite _ | .hostRecordSend | .fabricPacketReceive
  | .acknowledgementReceive _ _ _ | .resendTimeout _ _ | .portStateChange _ _ | .hunreachWrite _
  | .hostRegisterWrite _ _ | .powerBudgetWrite _ | .clusterOn _ | .clusterIdle _ | .clusterOff _ | .clusterReset _
  | .clusterClockStop _ | .clusterWake _ | .thermalSample _ _ | .hostSumpQuota _ _ _ | .rekey _ _
  | .attestationRequest _ | .chipReset | .bootStage _ _ | .endOfBoot | .streamElement _ | .hostBootSetting _
  | .pidRetire _ => false
  | _ => true

end Sys2Proof
end

