-- ==== Sys2Proof/Decode.lean ====
section
/-! DEFINITION. Sys2Proof/Decode.lean: the decoder, total on any parcels and rejecting by name (R274 to R285), and
after it the encoder, written from the same tables. -/

namespace Sys2Proof

/-- Why a parcel sequence raises ILL at the decode (R275, R434). The first two carry the marker cases of R434. -/
inductive Reject
  /-- A prefix at parcel index 65,535: no instruction parcel can follow. -/
  | prefixAtEnd
  /-- A fifth prefix in a row, with that parcel. -/
  | fifthPrefix (p : Parcel)
  /-- Two prefixes of one kind other than IMX, or three IMX. -/
  | repeatedPrefix
  /-- A PGX with page 0, 5 to 15, or a nonzero payload [6:0]. -/
  | badPage
  /-- An opcode that the maps do not assign on the selected page. -/
  | reservedOpcode
  /-- A prefix or a modifier that the instruction does not accept, or a field that must be 0. -/
  | badField
  /-- A register name that the field does not accept: 16 to 23, an odd pair, a read-only destination. -/
  | badRegister
  /-- An immediate outside the limit that the maps give. -/
  | badImmediate
  deriving DecidableEq, Repr

/-- The payload of RGX (R276). -/
structure Rgx where
  dh : Nat
  ah : Nat
  bh : Nat
  e : Nat
  deriving DecidableEq, Repr

/-- The payload of MDX (R276). -/
structure Mdx where
  rnd : Nat
  sat : Bool
  ty : Nat
  spec : Nat
  deriving DecidableEq, Repr

/-- An instruction taken apart into its prefixes' payloads and its parcel's fields. -/
structure Raw where
  page : Nat
  rgx : Option Rgx
  mdx : Option Mdx
  imx : List Nat
  op : Nat
  k9 : Nat
  deriving DecidableEq, Repr

/-- Bits [15:13] are 0b111 (R274). -/
def isPrefix (p : Parcel) : Bool := p.toNat / 8192 == 7

/-- Collect the prefixes up to the instruction parcel (R274). The list holds the parcels from the PC to index 65,535,
six at most. -/
def scan (acc : List Parcel) : List Parcel → Except Reject (List Parcel × Parcel)
  | [] => .error .prefixAtEnd
  | p :: rest =>
    if isPrefix p then
      if rest.isEmpty then .error .prefixAtEnd
      else if acc.length = 4 then .error (.fifthPrefix p)
      else scan (acc ++ [p]) rest
    else .ok (acc, p)

/-- Record one prefix (R275, R276). -/
def addPrefix (r : Raw) (p : Parcel) : Except Reject Raw :=
  let v := p.toNat % 2048
  if p.toNat / 2048 % 4 = 0 then
    if r.imx.length < 2 then .ok { r with imx := r.imx ++ [v] } else .error .repeatedPrefix
  else if p.toNat / 2048 % 4 = 1 then
    if r.rgx.isSome then .error .repeatedPrefix
    else .ok { r with rgx := some ⟨v / 512, v / 128 % 4, v / 32 % 4, v % 32⟩ }
  else if p.toNat / 2048 % 4 = 2 then
    if r.page ≠ 0 then .error .repeatedPrefix
    else if v % 128 = 0 ∧ 1 ≤ v / 128 ∧ v / 128 ≤ 4 then .ok { r with page := v / 128 }
    else .error .badPage
  else
    if r.mdx.isSome then .error .repeatedPrefix
    else .ok { r with mdx := some ⟨v / 256, v / 128 % 2 == 1, v / 16 % 8, v % 16⟩ }

/-- Record every prefix, in parcel order. -/
def addPrefixes (r : Raw) : List Parcel → Except Reject Raw
  | [] => .ok r
  | p :: ps =>
    match addPrefix r p with
    | .ok r' => addPrefixes r' ps
    | .error x => .error x

namespace Raw

/-- Number of register field d, widened by RGX (R278). -/
def dNo (r : Raw) : Nat := 8 * (r.rgx.elim 0 Rgx.dh) + r.k9 / 64
/-- Number of register field a. -/
def aNo (r : Raw) : Nat := 8 * (r.rgx.elim 0 Rgx.ah) + r.k9 / 8 % 8
/-- Number of register field b. -/
def bNo (r : Raw) : Nat := 8 * (r.rgx.elim 0 Rgx.bh) + r.k9 % 8
/-- High bits of a in RGX. -/
def ah (r : Raw) : Nat := r.rgx.elim 0 Rgx.ah
/-- High bits of b in RGX. -/
def bh (r : Raw) : Nat := r.rgx.elim 0 Rgx.bh
/-- The e field of RGX, 0 without RGX. -/
def eNo (r : Raw) : Nat := r.rgx.elim 0 Rgx.e
/-- The 3-bit immediate field. -/
def i3 (r : Raw) : Nat := r.k9 % 8
/-- The 6-bit immediate field. -/
def k6 (r : Raw) : Nat := r.k9 % 64
/-- The modifiers; without MDX they are RND 0, SAT 0, TYPE 0, SPEC 0 (R280). -/
def mods (r : Raw) : Mdx := r.mdx.getD ⟨0, false, 0, 0⟩

end Raw

/-- The register of a number (R50). -/
def regOf (n : Nat) : Option Reg :=
  if n < 16 then some (.g (Fin.ofNat 16 n))
  else if n = 24 then some (.port .w)
  else if n = 25 then some (.port .e)
  else if n = 26 then some (.port .n)
  else if n = 27 then some (.port .s)
  else if n = 28 then some .zr
  else if n = 29 then some .lk
  else if n = 30 then some .cc
  else if n = 31 then some .bd
  else none

/-- The number of a register (R50). -/
def Reg.number : Reg → Nat
  | .g n => n.val
  | .port .w => 24
  | .port .e => 25
  | .port .n => 26
  | .port .s => 27
  | .zr => 28
  | .lk => 29
  | .cc => 30
  | .bd => 31

/-- The register of a number, when it satisfies the field's kind. -/
def regIf (ok : Reg → Bool) (n : Nat) : Option Reg :=
  match regOf n with
  | some r => if ok r then some r else none
  | none => none

/-- The pair of a number (R51). -/
def pairOf (n : Nat) : Option Pair :=
  if n = 28 then some .zr
  else if n < 16 ∧ n % 2 = 0 then some (.even (Fin.ofNat 8 (n / 2)))
  else none

/-- The number of a pair: its even register, or zr. -/
def Pair.number : Pair → Nat
  | .even k => 2 * k.val
  | .zr => 28

/-- A pointer or vector register of a number (R51): the RGX high bits must be 0. -/
def fin8Of (n : Nat) : Option (Fin 8) := if n < 8 then some (Fin.ofNat 8 n) else none

/-- A rounding mode of a code (R151). -/
def rndOf (n : Nat) : Option Rnd :=
  if n = 0 then some .rne else if n = 1 then some .rtz else if n = 2 then some .rup
  else if n = 3 then some .rdn else if n = 4 then some .rna else if n = 5 then some .sr else none

/-- The code of a rounding mode. -/
def Rnd.code : Rnd → Nat
  | .rne => 0 | .rtz => 1 | .rup => 2 | .rdn => 3 | .rna => 4 | .sr => 5

/-- A mode that arithmetic accepts, 0 to 4. -/
def rndArithOf (n : Nat) : Option Rnd := if n = 5 then none else rndOf n

/-- A format of a code 0 to 9 (R143). -/
def fmtOf (n : Nat) : Option Fmt :=
  if n = 0 then some .fp32 else if n = 1 then some .bf16 else if n = 2 then some .fp16
  else if n = 3 then some .e4m3 else if n = 4 then some .e5m2 else if n = 5 then some .e2m1
  else if n = 6 then some .i32 else if n = 7 then some .i8 else if n = 8 then some .i16
  else if n = 9 then some .i4 else none

/-- The code of a format. -/
def Fmt.code : Fmt → Nat
  | .fp32 => 0 | .bf16 => 1 | .fp16 => 2 | .e4m3 => 3 | .e5m2 => 4 | .e2m1 => 5
  | .i32 => 6 | .i8 => 7 | .i16 => 8 | .i4 => 9

/-- The condition of VCMP (R400). -/
def condOf (n : Nat) : Option Cond :=
  if n = 0 then some .eq else if n = 1 then some .lt else if n = 2 then some .le else none

/-- The code of a condition. -/
def Cond.code : Cond → Nat
  | .eq => 0 | .lt => 1 | .le => 2

/-- The three kinds of immediate (R279). -/
inductive ImmKind
  | S | U | Z
  deriving DecidableEq, Repr

/-- The field and its IMX payloads as one unsigned number: the first IMX stands just above the field (R279). -/
def immRaw (w field : Nat) : List Nat → Nat
  | [] => field
  | [x] => field + 2 ^ w * x
  | x :: y :: _ => field + 2 ^ w * x + 2 ^ (w + 11) * y

/-- Two's complement value of a field of n bits. -/
def signed (n v : Nat) : Int := if v < 2 ^ (n - 1) then (v : Int) else (v : Int) - 2 ^ n

/-- The value of an immediate (R279). -/
def immVal (k : ImmKind) (w field : Nat) (imx : List Nat) : Int :=
  match k, imx with
  | .S, _ => signed (w + 11 * imx.length) (immRaw w field imx)
  | .U, [] => field
  | .U, _ => signed (w + 11 * imx.length) (immRaw w field imx)
  | .Z, _ => immRaw w field imx

/-- The immediate fits a field of w bits with n IMX. -/
def immFits (k : ImmKind) (w n : Nat) (z : Int) : Bool :=
  match k, n with
  | .S, _ => fitsSigned (w + 11 * n - 1) z
  | .U, 0 => fitsUnsigned w z
  | .U, _ => fitsSigned (w + 11 * n - 1) z
  | .Z, _ => fitsUnsigned (w + 11 * n) z

/-- The fewest IMX payloads that hold a value, and its field (R279, R289). -/
def immEnc (k : ImmKind) (w : Nat) (z : Int) : List Nat × Nat :=
  if immFits k w 0 z then ([], (z % 2 ^ w).toNat)
  else if immFits k w 1 z then
    let u := (z % 2 ^ (w + 11)).toNat
    ([u / 2 ^ w], u % 2 ^ w)
  else
    let u := (z % 2 ^ (w + 22)).toNat
    ([u / 2 ^ w % 2048, u / 2 ^ (w + 11)], u % 2 ^ w)

/-- A decoded instruction or its rejection. -/
abbrev Dec := Except Reject Instr

/-- A condition on the fields. -/
def need (c : Bool) (k : Dec) : Dec := if c then k else .error .badField

/-- A limit of an immediate. -/
def limit (c : Bool) (k : Dec) : Dec := if c then k else .error .badImmediate

/-- One operand. -/
def with1 {α : Type} (x : Option α) (f : α → Dec) : Dec :=
  match x with
  | some v => f v
  | none => .error .badRegister

namespace Raw

/-- No IMX, no MDX. -/
def bare (r : Raw) : Bool := r.imx.isEmpty && r.mdx.isNone
/-- No IMX, no MDX, e = 0. -/
def bareE0 (r : Raw) : Bool := r.bare && r.eNo == 0
/-- Nothing at all before the parcel, PGX apart. -/
def alone (r : Raw) : Bool := r.bare && r.rgx.isNone

/-- JL with k9 = 0. -/
def jl0 (r : Raw) (i : Instr) : Dec := need (r.alone && r.k9 == 0) (.ok i)
/-- JL with a k9 immediate. -/
def jlImm (r : Raw) (k : ImmKind) (f : Int → Instr) : Dec :=
  need (r.rgx.isNone && r.mdx.isNone) (.ok (f (immVal k 9 r.k9 r.imx)))
/-- JR, JALR. -/
def jump (r : Raw) (f : Reg → Instr) : Dec :=
  need (r.bareE0 && r.dNo == 0 && r.bNo == 0) (with1 (regOf r.aNo) fun a => .ok (f a))
/-- BZ, BNZ. -/
def branchIf (r : Raw) (f : Reg → Int → Instr) : Dec :=
  need (r.mdx.isNone && r.ah == 0 && r.bh == 0 && r.eNo == 0)
    (with1 (regOf r.dNo) fun d => .ok (f d (immVal .S 6 r.k6 r.imx)))
/-- The count of a send (R281): 0 to 7, or 8 through BH[0] with b = 0. -/
def count (r : Raw) (f : Fin 9 → Dec) : Dec :=
  if r.bNo ≤ 8 then f (Fin.ofNat 9 r.bNo) else .error .badField
/-- SEND, SENDM, SVSEND. -/
def send3 (r : Raw) (f : Pair → Reg → Fin 9 → Instr) : Dec :=
  need r.bareE0 (with1 (pairOf r.dNo) fun d => with1 (regOf r.aNo) fun a => r.count fun n => .ok (f d a n))
/-- Destination and two sources. -/
def dab3 (r : Raw) (f : Reg → Reg → Reg → Instr) : Dec :=
  need r.bareE0 (with1 (regIf Reg.writable r.dNo) fun d => with1 (regOf r.aNo) fun a => with1 (regOf r.bNo) fun b =>
    .ok (f d a b))
/-- Destination and one source. -/
def dab2 (r : Raw) (f : Reg → Reg → Instr) : Dec :=
  need (r.bareE0 && r.bNo == 0) (with1 (regIf Reg.writable r.dNo) fun d => with1 (regOf r.aNo) fun a => .ok (f d a))
/-- Destination, source and an immediate of i3, kind U. -/
def daiImm (r : Raw) (ok : Reg → Bool) (lim : Int → Bool) (f : Reg → Reg → Int → Instr) : Dec :=
  need (r.mdx.isNone && r.bh == 0 && r.eNo == 0)
    (with1 (regIf ok r.dNo) fun d => with1 (regOf r.aNo) fun a =>
      limit (lim (immVal .U 3 r.i3 r.imx)) (.ok (f d a (immVal .U 3 r.i3 r.imx))))
/-- Destination and an immediate of k6. -/
def dkImm (r : Raw) (ok : Reg → Bool) (k : ImmKind) (lim : Int → Bool) (f : Reg → Int → Instr) : Dec :=
  need (r.mdx.isNone && r.ah == 0 && r.bh == 0 && r.eNo == 0)
    (with1 (regIf ok r.dNo) fun d => limit (lim (immVal k 6 r.k6 r.imx)) (.ok (f d (immVal k 6 r.k6 r.imx))))
/-- The memory operand of the scalar forms (R53). -/
def mem (r : Raw) (f : MemOp → Dec) : Dec :=
  with1 (fin8Of r.aNo) fun p => f ⟨p, r.i3 / 4 == 1, immVal .U 2 (r.i3 % 4) r.imx⟩
/-- Prefixes of the scalar memory forms: RGX with DH only, no MDX. -/
def memOk (r : Raw) : Bool := r.mdx.isNone && r.bh == 0 && r.eNo == 0
/-- A memory form whose d is a register. -/
def memReg (r : Raw) (ok : Reg → Bool) (f : Reg → MemOp → Instr) : Dec :=
  need r.memOk (with1 (regIf ok r.dNo) fun d => r.mem fun m => .ok (f d m))
/-- A memory form whose d is a pair. -/
def memPair (r : Raw) (f : Pair → MemOp → Instr) : Dec :=
  need r.memOk (with1 (pairOf r.dNo) fun d => r.mem fun m => .ok (f d m))
/-- A line form whose d is 0. -/
def memNone (r : Raw) (f : MemOp → Instr) : Dec :=
  need (r.memOk && r.dNo == 0) (r.mem fun m => .ok (f m))
/-- PSTR, PADD. -/
def ptrImm (r : Raw) (lim : Int → Bool) (f : PtrNo → Int → Instr) : Dec :=
  need (r.mdx.isNone && r.ah == 0 && r.bh == 0 && r.eNo == 0)
    (with1 (fin8Of r.dNo) fun d => limit (lim (immVal .S 6 r.k6 r.imx)) (.ok (f d (immVal .S 6 r.k6 r.imx))))
/-- The count register of a stream: e with RGX, g7 without (R55, R278). -/
def countReg (r : Raw) : Option Reg :=
  match r.rgx with
  | some x => regOf x.e
  | none => some (.g 7)
/-- The element type of a stream (R55). -/
def streamTy (r : Raw) (f : StreamTy → Dec) : Dec :=
  match r.mdx with
  | none => f (.int false)
  | some m =>
    if m.ty = 6 ∧ m.spec = 0 ∧ m.rnd = 0 then f (.int m.sat)
    else if m.ty = 0 ∧ m.spec = 0 ∧ m.sat = false then
      match rndArithOf m.rnd with
      | some x => f (.fp x)
      | none => .error .badField
    else .error .badField
/-- SADD, SMUL, SFMA. -/
def stream3 (r : Raw) (f : PtrNo → PtrNo → PtrNo → Reg → StreamTy → Instr) : Dec :=
  need r.imx.isEmpty (with1 (fin8Of r.dNo) fun d => with1 (fin8Of r.aNo) fun a => with1 (fin8Of r.bNo) fun b =>
    with1 r.countReg fun e => r.streamTy fun t => .ok (f d a b e t))
/-- The rounding mode where the row names RND 0-4 only. -/
def rndOnly (r : Raw) (f : Rnd → Dec) : Dec :=
  need (r.imx.isEmpty && r.eNo == 0 && !r.mods.sat && r.mods.ty == 0 && r.mods.spec == 0)
    (match rndArithOf r.mods.rnd with
     | some x => f x
     | none => .error .badField)
/-- Page 1 with two sources and RND. -/
def fp3 (r : Raw) (f : Reg → Reg → Reg → Rnd → Instr) : Dec :=
  r.rndOnly fun x => with1 (regIf Reg.writable r.dNo) fun d => with1 (regOf r.aNo) fun a => with1 (regOf r.bNo) fun b =>
    .ok (f d a b x)
/-- Page 1 with one source and RND. -/
def fp2 (r : Raw) (f : Reg → Reg → Rnd → Instr) : Dec :=
  need (r.bNo == 0) (r.rndOnly fun x => with1 (regIf Reg.writable r.dNo) fun d => with1 (regOf r.aNo) fun a =>
    .ok (f d a x))
/-- FTOI, ITOF. -/
def fpInt (r : Raw) (f : Reg → Reg → Rnd → Bool → Instr) : Dec :=
  need (r.imx.isEmpty && r.eNo == 0 && r.bNo == 0 && r.mods.ty == 0 && r.mods.spec == 0)
    (match rndArithOf r.mods.rnd with
     | some x => with1 (regIf Reg.writable r.dNo) fun d => with1 (regOf r.aNo) fun a => .ok (f d a x r.mods.sat)
     | none => .error .badField)
/-- The modifiers of FCVT and VCVT. -/
def cvt (r : Raw) (f : Rnd → Bool → Fmt → Fmt → Dec) : Dec :=
  need (r.imx.isEmpty && r.eNo == 0 && r.bNo == 0)
    (match rndOf r.mods.rnd, fmtOf r.mods.ty, fmtOf r.mods.spec with
     | some x, some t, some s => f x r.mods.sat t s
     | _, _, _ => .error .badField)
/-- TWOSUM, TWOPROD. -/
def two (r : Raw) (f : Pair → Reg → Reg → Instr) : Dec :=
  need r.bareE0 (with1 (pairOf r.dNo) fun d => with1 (regOf r.aNo) fun a => with1 (regOf r.bNo) fun b => .ok (f d a b))
/-- The modifiers of arithmetic vector instructions (R197). -/
def vmod (r : Raw) (x : Bool) (f : VMod → Dec) : Dec :=
  need (r.imx.isEmpty && r.eNo == 0 && !r.mods.sat && (r.mods.ty == 0 || r.mods.ty == 6)
      && (if x then r.mods.spec / 4 == 0 else r.mods.spec / 2 == 0))
    (match rndArithOf r.mods.rnd with
     | some m => f ⟨r.mods.ty == 6, m, r.mods.spec % 2 == 1⟩
     | none => .error .badField)
/-- Vector operands d, a, b. -/
def v3 (r : Raw) (f : VNo → VNo → VNo → Dec) : Dec :=
  with1 (fin8Of r.dNo) fun d => with1 (fin8Of r.aNo) fun a => with1 (fin8Of r.bNo) fun b => f d a b
/-- VADD to VMAX. -/
def varith (r : Raw) (f : VNo → VNo → VNo → VMod → Instr) : Dec :=
  r.vmod false fun m => r.v3 fun d a b => .ok (f d a b m)
/-- VAND to VSHR, VSEL, VPERM. -/
def vlogic (r : Raw) (f : VNo → VNo → VNo → Instr) : Dec :=
  need r.bareE0 (r.v3 fun d a b => .ok (f d a b))
/-- VEXP2, VLOG2, VRCP. -/
def vfun (r : Raw) (f : VNo → VNo → Rnd → Bool → Instr) : Dec :=
  need (r.bNo == 0) (r.vmod false fun m =>
    need (!m.int) (with1 (fin8Of r.dNo) fun d => with1 (fin8Of r.aNo) fun a => .ok (f d a m.rnd m.pn)))
/-- VRSUM, VRMAX. -/
def vred (r : Raw) (f : Reg → VNo → VMod → Bool → Instr) : Dec :=
  need (r.bNo == 0) (r.vmod true fun m => with1 (regIf Reg.late r.dNo) fun d => with1 (fin8Of r.aNo) fun a =>
    if r.mods.spec / 2 % 2 = 1 then (if d.evenOrZr then .ok (f d a m true) else .error .badRegister)
    else .ok (f d a m false))
/-- The element type of the vector memory forms (R407). -/
def vmemTy (r : Raw) (f : Fmt → Dec) : Dec :=
  need (!r.mods.sat && r.mods.rnd == 0 && r.mods.spec == 0)
    (match fmtOf r.mods.ty with
     | some t => f t
     | none => .error .badField)
/-- The memory operand of the vector forms (R407). -/
def vmem (r : Raw) (f : VNo → MemOp → Dec) : Dec :=
  need (r.bh == 0) (with1 (fin8Of r.dNo) fun d => with1 (fin8Of r.aNo) fun p =>
    f d ⟨p, r.i3 / 4 == 1, immVal .U 1 (r.i3 % 2) r.imx⟩)
/-- S, bit i3[1]. -/
def sBit (r : Raw) : Bool := r.i3 / 2 % 2 == 1
/-- The index register of VGTH and VSCT; RGX is required and i3[0] must be 0 (R407). -/
def vindex (r : Raw) (f : VNo → Dec) : Dec :=
  need (r.rgx.isSome && r.i3 % 2 == 0) (with1 (fin8Of r.eNo) f)
/-- The reply handler register: e, or zr when RGX is absent (R278). -/
def replyReg (r : Raw) : Option Reg :=
  match r.rgx with
  | some x => regOf x.e
  | none => some .zr
/-- An owner atomic with a register operand b (R300). -/
def owner (r : Raw) (f : Pair → Reg → Reg → Reg → Instr) : Dec :=
  need r.bare (with1 (pairOf r.dNo) fun d => with1 (regOf r.aNo) fun a => with1 (regOf r.bNo) fun b =>
    with1 r.replyReg fun e => .ok (f d a b e))
/-- A copy command with a VA or endpoint pair (R202). -/
def copy (r : Raw) (f : Reg → Pair → Pair → Reg → Instr) : Dec :=
  need r.bare (with1 (regOf r.dNo) fun d => with1 (pairOf r.aNo) fun a => with1 (pairOf r.bNo) fun b =>
    with1 r.replyReg fun e => .ok (f d a b e))
/-- A barrier (R134). -/
def barrier (r : Raw) (ok : Reg → Bool) (f : Reg → Fin 16 → Instr) : Dec :=
  need (r.bare && r.ah == 0 && r.bh == 0 && r.eNo == 0 && r.k6 / 16 == 0)
    (with1 (regIf ok r.dNo) fun d => .ok (f d (Fin.ofNat 16 (r.k6 % 16))))
/-- STABT, STCMT (R382). -/
def decision (r : Raw) (f : Reg → Reg → Reg → Instr) : Dec :=
  need (r.bare && r.dNo == 0) (with1 (regOf r.aNo) fun a => with1 (regOf r.bNo) fun b => with1 r.replyReg fun e =>
    .ok (f a b e))

end Raw

/-- Page 0 (R281). -/
def decodePage0 (r : Raw) : Dec :=
  match r.op with
  | 0x00 => r.jl0 .nop
  | 0x01 => r.jlImm .S .br
  | 0x02 => r.jlImm .S .call
  | 0x03 => r.jump .jr
  | 0x04 => r.jump .jalr
  | 0x05 => r.branchIf .bz
  | 0x06 => r.branchIf .bnz
  | 0x07 => r.jl0 .endAct
  | 0x08 => r.jl0 .seal
  | 0x09 => r.send3 .send
  | 0x0A => r.send3 .sendm
  | 0x0B => need (r.bareE0 && r.dNo == 0) (with1 (regOf r.aNo) fun a => r.count fun n => .ok (.reply a n))
  | 0x0C => need (r.bareE0 && r.bNo == 0) (with1 (pairOf r.dNo) fun d => with1 (regOf r.aNo) fun a => .ok (.migr d a))
  | 0x0D => need (r.bare && r.ah == 0 && r.bh == 0 && r.eNo == 0)
      (with1 (regIf Reg.writable r.dNo) fun d => limit (r.k6 < 8) (.ok (.geth d (Fin.ofNat 8 r.k6))))
  | 0x10 => r.dab3 .add
  | 0x11 => r.dab3 .sub
  | 0x12 => r.dab3 .and
  | 0x13 => r.dab3 .or
  | 0x14 => r.dab3 .xor
  | 0x15 => r.dab3 .shl
  | 0x16 => r.dab3 .shr
  | 0x17 => r.dab3 .sra
  | 0x18 => r.dab3 .mul
  | 0x19 => r.dab3 .mulh
  | 0x1A => r.dab3 .mulhu
  | 0x1B => r.dab3 .min
  | 0x1C => r.dab3 .max
  | 0x1D => r.dab3 .minu
  | 0x1E => r.dab3 .maxu
  | 0x1F => r.dab3 .slt
  | 0x20 => r.dab3 .sltu
  | 0x21 => r.dab3 .seq
  | 0x22 => r.dab3 .divu
  | 0x23 => r.dab3 .remu
  | 0x24 => r.dab2 .clz
  | 0x25 => r.dab2 .popc
  | 0x26 => r.dab3 .sel
  | 0x27 => r.daiImm Reg.writable bitFieldOk .bfx
  | 0x28 => r.daiImm Reg.late bitFieldOk .bfi
  | 0x30 => r.daiImm Reg.writable (fun _ => true) .addi
  | 0x31 => r.daiImm Reg.writable (fun _ => true) .andi
  | 0x32 => r.daiImm Reg.writable (fun _ => true) .ori
  | 0x33 => r.daiImm Reg.writable (fun _ => true) .xori
  | 0x34 => r.daiImm Reg.writable (fitsUnsigned 5) .shli
  | 0x35 => r.daiImm Reg.writable (fitsUnsigned 5) .shri
  | 0x36 => r.daiImm Reg.writable (fitsUnsigned 5) .srai
  | 0x37 => r.daiImm Reg.writable (fun _ => true) .slti
  | 0x38 => r.dkImm Reg.writable .S (fun _ => true) .ldi
  | 0x39 => r.dkImm Reg.late .Z (fitsUnsigned 16) .ldhi
  | 0x40 => r.memReg Reg.writable .ldw
  | 0x41 => r.memReg Reg.writable .ldh
  | 0x42 => r.memReg Reg.writable .ldhu
  | 0x43 => r.memReg Reg.writable .ldb
  | 0x44 => r.memReg Reg.writable .ldbu
  | 0x45 => r.memPair .ldd
  | 0x46 => r.memReg Reg.late .lds
  | 0x47 => r.memReg (fun _ => true) .stw
  | 0x48 => r.memReg (fun _ => true) .sth
  | 0x49 => r.memReg (fun _ => true) .stb
  | 0x4A => r.memPair .std
  | 0x4B => r.memNone .setf
  | 0x4C => r.memNone .sete
  | 0x4D => r.memReg Reg.writable .tstf
  | 0x4E => r.memReg Reg.writable .tstp
  | 0x4F => r.memNone .clrp
  | 0x50 => need r.bareE0 (with1 (fin8Of r.dNo) fun d => with1 (regOf r.aNo) fun a => with1 (regOf r.bNo) fun b =>
      .ok (.pset d a b))
  | 0x51 => r.ptrImm (fitsSigned 15) .pstr
  | 0x52 => r.ptrImm (fun _ => true) .padd
  | 0x53 => need (r.bareE0 && decide (r.bNo < 2))
      (with1 (regIf Reg.writable r.dNo) fun d => with1 (fin8Of r.aNo) fun a => .ok (.pget d a (r.bNo == 1)))
  | 0x54 => r.stream3 .sadd
  | 0x55 => r.stream3 .smul
  | 0x56 => r.stream3 .sfma
  | 0x57 => need (r.bare && r.bNo == 0)
      (with1 (fin8Of r.dNo) fun d => with1 (fin8Of r.aNo) fun a => with1 r.countReg fun e => .ok (.scpy d a e))
  | _ => .error .reservedOpcode

/-- Page 1 (R282). -/
def decodePage1 (r : Raw) : Dec :=
  match r.op with
  | 0x00 => r.fp3 .fadd
  | 0x01 => r.fp3 .fsub
  | 0x02 => r.fp3 .fmul
  | 0x03 => r.fp3 .ffma
  | 0x04 => r.fp3 .fdiv
  | 0x05 => r.fp2 .fsqrt
  | 0x06 => r.dab3 .fmin
  | 0x07 => r.dab3 .fmax
  | 0x08 => r.dab3 .feq
  | 0x09 => r.dab3 .flt
  | 0x0A => r.dab3 .fle
  | 0x0B => r.dab2 .fclass
  | 0x0C => r.fpInt .ftoi
  | 0x0D => r.fpInt .itof
  | 0x0E => r.cvt fun x s t u => with1 (regIf Reg.writable r.dNo) fun d => with1 (regOf r.aNo) fun a =>
      .ok (.fcvt d a x s t u)
  | 0x0F => r.fp2 .fexp2
  | 0x10 => r.fp2 .flog2
  | 0x11 => r.fp2 .frcp
  | 0x12 => r.fp2 .frsq
  | 0x13 => r.two .twosum
  | 0x14 => r.two .twoprod
  | _ => .error .reservedOpcode

/-- Page 2 (R283, R394 to R410). -/
def decodePage2 (r : Raw) : Dec :=
  match r.op with
  | 0x00 => r.varith .vadd
  | 0x01 => r.varith .vsub
  | 0x02 => r.varith .vmul
  | 0x03 => r.varith .vfma
  | 0x04 => r.varith .vmin
  | 0x05 => r.varith .vmax
  | 0x06 => r.vlogic .vand
  | 0x07 => r.vlogic .vor
  | 0x08 => r.vlogic .vxor
  | 0x09 => r.vlogic .vshl
  | 0x0A => r.vlogic .vshr
  | 0x0B => need (r.imx.isEmpty && !r.mods.sat && r.mods.rnd == 0 && r.mods.spec == 0
        && (r.mods.ty == 0 || r.mods.ty == 6))
      (match condOf r.eNo with
       | some c => r.v3 fun d a b => .ok (.vcmp d a b c (r.mods.ty == 6))
       | none => .error .badField)
  | 0x0C => r.vlogic .vsel
  | 0x0D => r.cvt fun x s t u => with1 (fin8Of r.dNo) fun d => with1 (fin8Of r.aNo) fun a => .ok (.vcvt d a x s t u)
  | 0x0E => r.vfun .vexp2
  | 0x0F => r.vfun .vlog2
  | 0x10 => r.vfun .vrcp
  | 0x11 => r.vred .vrsum
  | 0x12 => r.vred .vrmax
  | 0x13 => need (r.bNo == 0) (r.vmod false fun m => with1 (fin8Of r.dNo) fun d => with1 (fin8Of r.aNo) fun a =>
      .ok (.vscan d a m))
  | 0x14 => need (r.bareE0 && r.bNo == 0) (with1 (fin8Of r.dNo) fun d => with1 (regOf r.aNo) fun a => .ok (.vbcst d a))
  | 0x15 => r.vlogic .vperm
  | 0x16 => need (r.eNo == 0) (r.vmemTy fun t => r.vmem fun d m => .ok (.vld d m r.sBit t))
  | 0x17 => need (r.eNo == 0 && !r.sBit) (r.vmemTy fun t => r.vmem fun d m => .ok (.vst d m t))
  | 0x18 => r.vindex fun e => r.vmemTy fun t => r.vmem fun d m => .ok (.vgth d m r.sBit e t)
  | 0x19 => need (!r.sBit) (r.vindex fun e => r.vmemTy fun t => r.vmem fun d m => .ok (.vsct d m e t))
  | 0x1A => need r.bareE0 (with1 (regIf Reg.late r.dNo) fun d => with1 (fin8Of r.aNo) fun a =>
      with1 (regOf r.bNo) fun b => .ok (.vmvg d a b))
  | 0x1B => need (r.bareE0 && r.dNo == 0 && r.bNo == 0) (with1 (regOf r.aNo) fun a => .ok (.vsetl a))
  | 0x1C => need (r.bareE0 && r.dNo == 0 && r.aNo == 0 && r.bNo == 0) (.ok .vacq)
  | _ => .error .reservedOpcode

/-- Page 3 (R284, R98, R134, R173, R202, R218). -/
def decodePage3 (r : Raw) : Dec :=
  match r.op with
  | 0x00 => need (r.bare && r.aNo == 0 && r.bNo == 0) (with1 (regOf r.dNo) fun d => with1 r.replyReg fun e =>
      .ok (.mxcfg d e))
  | 0x01 => need (r.bare && r.bNo == 0) (with1 (regOf r.dNo) fun d => with1 (pairOf r.aNo) fun a =>
      with1 r.replyReg fun e => .ok (.mxld d a e))
  | 0x02 => r.copy .mxmul
  | 0x03 => need (r.imx.isEmpty && r.bNo == 0 && r.mods.ty == 0 && r.mods.spec == 0)
      (match rndOf r.mods.rnd with
       | some x => with1 (regOf r.dNo) fun d => with1 (pairOf r.aNo) fun a => with1 r.replyReg fun e =>
           .ok (.mxdr d a e x r.mods.sat)
       | none => .error .badField)
  | 0x04 => need (r.bare && r.bNo == 0) (with1 (regOf r.dNo) fun d => with1 (pairOf r.aNo) fun a =>
      with1 r.replyReg fun e => .ok (.mxdra d a e))
  | 0x05 => need (r.bareE0 && r.bNo == 0) (with1 (pairOf r.dNo) fun d => with1 (regOf r.aNo) fun a => .ok (.mxqry d a))
  | 0x08 => r.copy .cpget
  | 0x09 => r.copy .cpput
  | 0x0A => r.copy .cpfst
  | 0x0B => need r.bare (with1 (regOf r.dNo) fun d => with1 (regOf r.aNo) fun a => with1 (pairOf r.bNo) fun b =>
      with1 r.replyReg fun e => .ok (.cpfill d a b e))
  | 0x10 => need (r.bareE0 && r.bNo == 0) (with1 (regIf Reg.gz r.dNo) fun d => with1 (pairOf r.aNo) fun a =>
      .ok (.gld d a))
  | 0x11 => need (r.bareE0 && r.bNo == 0) (with1 (pairOf r.dNo) fun d => with1 (pairOf r.aNo) fun a => .ok (.gldd d a))
  | 0x12 => need (r.bare && r.bNo == 0) (with1 (regOf r.dNo) fun d => with1 (pairOf r.aNo) fun a =>
      with1 r.replyReg fun e => .ok (.gst d a e))
  | 0x13 => need (r.bare && r.bNo == 0) (with1 (pairOf r.dNo) fun d => with1 (pairOf r.aNo) fun a =>
      with1 r.replyReg fun e => .ok (.gstd d a e))
  | 0x14 => need r.bare (with1 (pairOf r.dNo) fun d => with1 (pairOf r.aNo) fun a => with1 (regOf r.bNo) fun b =>
      with1 r.replyReg fun e => .ok (.gstmc d a b e))
  | 0x18 => r.owner .amadd
  | 0x19 => r.owner .amswp
  | 0x1A => need r.bare (with1 (pairOf r.dNo) fun d => with1 (regOf r.aNo) fun a => with1 (pairOf r.bNo) fun b =>
      with1 r.replyReg fun e => .ok (.amcas d a b e))
  | 0x1B => r.owner .ammax
  | 0x1C => r.owner .ammin
  | 0x1D => r.owner .amor
  | 0x1E => r.owner .amand
  | 0x20 => r.dab3 .nadd
  | 0x21 => need r.bareE0 (with1 (regIf Reg.writable r.dNo) fun d => with1 (regOf r.aNo) fun a =>
      with1 (pairOf r.bNo) fun b => .ok (.ncas d a b))
  | 0x22 => r.dab3 .nswp
  | 0x28 => need (r.bareE0 && r.dNo == 0 && r.aNo == 0 && r.bNo == 0) (.ok .step)
  | 0x29 => need (r.bareE0 && r.dNo == 0 && r.aNo == 0 && r.bNo == 0) (.ok .stepw)
  | 0x2A => need (r.bareE0 && r.aNo == 0 && r.bh == 0 && decide (r.i3 < 3))
      (with1 (pairOf r.dNo) fun d => .ok (.stepq d (Fin.ofNat 3 r.i3)))
  | 0x30 => r.barrier Reg.late .bara
  | 0x31 => r.barrier Reg.notPort .barw
  | 0x32 => r.barrier Reg.notPort .bari
  | 0x38 => need (r.bare && r.rgx.isSome) (with1 (regOf r.dNo) fun d => with1 (regOf r.aNo) fun a => r.count fun n =>
      with1 (regOf r.eNo) fun e => .ok (.tset d a n e))
  | 0x39 => need r.bareE0 (with1 (pairOf r.dNo) fun d => with1 (regOf r.aNo) fun a => with1 (regOf r.bNo) fun b =>
      .ok (.tdec d a b))
  | 0x3A => need (r.bare && r.bNo == 0) (with1 (pairOf r.dNo) fun d => with1 (regOf r.aNo) fun a =>
      with1 r.replyReg fun e => .ok (.launch d a e))
  | _ => .error .reservedOpcode

/-- Page 4 (R285, R132). -/
def decodePage4 (r : Raw) : Dec :=
  match r.op with
  | 0x00 => r.jlImm .Z .trap
  | 0x01 => r.jlImm .Z .brk
  | 0x02 => if r.k9 = 0 then need r.alone (.ok .fence0)
      else if r.k9 = 1 then need r.alone (.ok .fence1) else .error .badField
  | 0x03 => r.dkImm Reg.writable .Z (fun _ => true) .csrr
  | 0x04 => r.dkImm (fun _ => true) .Z (fun _ => true) .csrw
  | 0x05 => need (r.bare && r.ah == 0 && r.bh == 0 && r.eNo == 0)
      (with1 (regIf Reg.writable r.dNo) fun d => limit (r.k6 < 5) (.ok (.pwrq d (Fin.ofNat 5 r.k6))))
  | 0x10 => r.send3 .svsend
  | 0x11 => need (r.bare && r.bNo == 0) (with1 (pairOf r.dNo) fun d => with1 (regOf r.aNo) fun a =>
      with1 r.replyReg fun e => .ok (.redlv d a e))
  | 0x12 => r.decision .stabt
  | 0x13 => r.decision .stcmt
  | 0x14 => need (r.bare && r.bNo == 0) (with1 (regOf r.dNo) fun d => with1 (regOf r.aNo) fun a =>
      with1 r.replyReg fun e => .ok (.mapw d a e))
  | _ => .error .reservedOpcode

/-- Decode the fields on their page. -/
def decodeRaw (r : Raw) : Dec :=
  match r.page with
  | 0 => decodePage0 r
  | 1 => decodePage1 r
  | 2 => decodePage2 r
  | 3 => decodePage3 r
  | 4 => decodePage4 r
  | _ => .error .badPage

/-- The fields of an instruction: its prefixes and its parcel (R274, R276). -/
def rawOf (prefixes : List Parcel) (ip : Parcel) : Except Reject Raw :=
  addPrefixes ⟨0, none, none, [], ip.toNat / 512, ip.toNat % 512⟩ prefixes

/-- Decode the instruction that starts at the head of the parcels, with its length in parcels. The list holds the
parcels from the PC to index 65,535, six at most (R274). -/
def decode (ps : List Parcel) : Except Reject (Instr × Nat) :=
  match scan [] ps with
  | .error x => .error x
  | .ok (pre, ip) =>
    match rawOf pre ip with
    | .error x => .error x
    | .ok r =>
      match decodeRaw r with
      | .error x => .error x
      | .ok i => .ok (i, pre.length + 1)

/-! ## The encoder -/

/-- RGX for three register numbers and an e field whose default is dflt; none when nothing needs it (R289). -/
def rgxFor (d a b e dflt : Nat) : Option Rgx :=
  if d < 8 ∧ a < 8 ∧ b < 8 ∧ e = dflt then none else some ⟨d / 8, a / 8, b / 8, e⟩

/-- The nine bits of d, a, b. -/
def k9For (d a b : Nat) : Nat := 64 * (d % 8) + 8 * (a % 8) + b % 8

/-- A DAB instruction with no e. -/
def encDab (page op d a b : Nat) : Raw := ⟨page, rgxFor d a b 0 0, none, [], op, k9For d a b⟩
/-- A DAB instruction with a reply or key e. -/
def encDabE (page op d a b : Nat) (e : Reg) : Raw := ⟨page, rgxFor d a b e.number 28, none, [], op, k9For d a b⟩
/-- MDX, none when it is the default (R280). -/
def mdxFor (rnd : Nat) (sat : Bool) (ty spec : Nat) : Option Mdx :=
  if rnd = 0 ∧ sat = false ∧ ty = 0 ∧ spec = 0 then none else some ⟨rnd, sat, ty, spec⟩
/-- A DAB instruction with an MDX. -/
def encDabM (page op d a b : Nat) (m : Option Mdx) : Raw := ⟨page, rgxFor d a b 0 0, m, [], op, k9For d a b⟩
/-- A DAI instruction with an immediate in i3. -/
def encDai (op d a : Nat) (z : Int) : Raw :=
  let (imx, f) := immEnc .U 3 z
  ⟨0, rgxFor d a 0 0 0, none, imx, op, k9For d a f⟩
/-- A scalar memory form. -/
def encMem (op d : Nat) (m : MemOp) : Raw :=
  let (imx, f) := immEnc .U 2 m.off
  ⟨0, rgxFor d 0 0 0 0, none, imx, op, k9For d m.p.val ((if m.post then 4 else 0) + f)⟩
/-- A DK instruction with an immediate in k6. -/
def encDk (page op d : Nat) (k : ImmKind) (z : Int) : Raw :=
  let (imx, f) := immEnc k 6 z
  ⟨page, rgxFor d 0 0 0 0, none, imx, op, 64 * (d % 8) + f⟩
/-- A JL instruction with an immediate in k9. -/
def encJl (page op : Nat) (k : ImmKind) (z : Int) : Raw :=
  let (imx, f) := immEnc k 9 z
  ⟨page, none, none, imx, op, f⟩
/-- The MDX of a stream (R55, R368). -/
def encStreamTy : StreamTy → Option Mdx
  | .int false => none
  | .int true => some ⟨0, true, 6, 0⟩
  | .fp r => some ⟨r.code, false, 0, 0⟩
/-- A stream instruction; the default of its count is g7. -/
def encStream (op d a b : Nat) (e : Reg) (m : Option Mdx) : Raw :=
  ⟨0, (if e = .g 7 then none else some ⟨0, 0, 0, e.number⟩), m, [], op, k9For d a b⟩
/-- The MDX of an arithmetic vector instruction. -/
def encVMod (m : VMod) (x : Bool) : Option Mdx :=
  mdxFor m.rnd.code false (if m.int then 6 else 0) ((if m.pn then 1 else 0) + (if x then 2 else 0))
/-- A vector memory form; index: the e field of VGTH and VSCT. -/
def encVMem (op : Nat) (d : VNo) (m : MemOp) (s : Bool) (t : Fmt) (index : Option VNo) : Raw :=
  let (imx, f) := immEnc .U 1 m.off
  ⟨2, index.map (fun e => ⟨0, 0, 0, e.val⟩), mdxFor 0 false t.code 0, imx, op,
    k9For d.val m.p.val ((if m.post then 4 else 0) + (if s then 2 else 0) + f)⟩

/-- The fields of an instruction of the cores; operations of the device have none. -/
def encodeRaw : Instr → Option Raw
  | .nop => some ⟨0, none, none, [], 0x00, 0⟩
  | .br z => some (encJl 0 0x01 .S z)
  | .call z => some (encJl 0 0x02 .S z)
  | .jr a => some (encDab 0 0x03 0 a.number 0)
  | .jalr a => some (encDab 0 0x04 0 a.number 0)
  | .bz d z => some (encDk 0 0x05 d.number .S z)
  | .bnz d z => some (encDk 0 0x06 d.number .S z)
  | .endAct => some ⟨0, none, none, [], 0x07, 0⟩
  | .seal => some ⟨0, none, none, [], 0x08, 0⟩
  | .send d a n => some (encDab 0 0x09 d.number a.number n.val)
  | .sendm d a n => some (encDab 0 0x0A d.number a.number n.val)
  | .reply a n => some (encDab 0 0x0B 0 a.number n.val)
  | .migr d a => some (encDab 0 0x0C d.number a.number 0)
  | .geth d k => some ⟨0, rgxFor d.number 0 0 0 0, none, [], 0x0D, 64 * (d.number % 8) + k.val⟩
  | .add d a b => some (encDab 0 0x10 d.number a.number b.number)
  | .sub d a b => some (encDab 0 0x11 d.number a.number b.number)
  | .and d a b => some (encDab 0 0x12 d.number a.number b.number)
  | .or d a b => some (encDab 0 0x13 d.number a.number b.number)
  | .xor d a b => some (encDab 0 0x14 d.number a.number b.number)
  | .shl d a b => some (encDab 0 0x15 d.number a.number b.number)
  | .shr d a b => some (encDab 0 0x16 d.number a.number b.number)
  | .sra d a b => some (encDab 0 0x17 d.number a.number b.number)
  | .mul d a b => some (encDab 0 0x18 d.number a.number b.number)
  | .mulh d a b => some (encDab 0 0x19 d.number a.number b.number)
  | .mulhu d a b => some (encDab 0 0x1A d.number a.number b.number)
  | .min d a b => some (encDab 0 0x1B d.number a.number b.number)
  | .max d a b => some (encDab 0 0x1C d.number a.number b.number)
  | .minu d a b => some (encDab 0 0x1D d.number a.number b.number)
  | .maxu d a b => some (encDab 0 0x1E d.number a.number b.number)
  | .slt d a b => some (encDab 0 0x1F d.number a.number b.number)
  | .sltu d a b => some (encDab 0 0x20 d.number a.number b.number)
  | .seq d a b => some (encDab 0 0x21 d.number a.number b.number)
  | .divu d a b => some (encDab 0 0x22 d.number a.number b.number)
  | .remu d a b => some (encDab 0 0x23 d.number a.number b.number)
  | .clz d a => some (encDab 0 0x24 d.number a.number 0)
  | .popc d a => some (encDab 0 0x25 d.number a.number 0)
  | .sel d a b => some (encDab 0 0x26 d.number a.number b.number)
  | .bfx d a z => some (encDai 0x27 d.number a.number z)
  | .bfi d a z => some (encDai 0x28 d.number a.number z)
  | .addi d a z => some (encDai 0x30 d.number a.number z)
  | .andi d a z => some (encDai 0x31 d.number a.number z)
  | .ori d a z => some (encDai 0x32 d.number a.number z)
  | .xori d a z => some (encDai 0x33 d.number a.number z)
  | .shli d a z => some (encDai 0x34 d.number a.number z)
  | .shri d a z => some (encDai 0x35 d.number a.number z)
  | .srai d a z => some (encDai 0x36 d.number a.number z)
  | .slti d a z => some (encDai 0x37 d.number a.number z)
  | .ldi d z => some (encDk 0 0x38 d.number .S z)
  | .ldhi d z => some (encDk 0 0x39 d.number .Z z)
  | .ldw d m => some (encMem 0x40 d.number m)
  | .ldh d m => some (encMem 0x41 d.number m)
  | .ldhu d m => some (encMem 0x42 d.number m)
  | .ldb d m => some (encMem 0x43 d.number m)
  | .ldbu d m => some (encMem 0x44 d.number m)
  | .ldd d m => some (encMem 0x45 d.number m)
  | .lds d m => some (encMem 0x46 d.number m)
  | .stw d m => some (encMem 0x47 d.number m)
  | .sth d m => some (encMem 0x48 d.number m)
  | .stb d m => some (encMem 0x49 d.number m)
  | .std d m => some (encMem 0x4A d.number m)
  | .setf m => some (encMem 0x4B 0 m)
  | .sete m => some (encMem 0x4C 0 m)
  | .tstf d m => some (encMem 0x4D d.number m)
  | .tstp d m => some (encMem 0x4E d.number m)
  | .clrp m => some (encMem 0x4F 0 m)
  | .pset d a b => some (encDab 0 0x50 d.val a.number b.number)
  | .pstr d z => some (encDk 0 0x51 d.val .S z)
  | .padd d z => some (encDk 0 0x52 d.val .S z)
  | .pget d a s => some (encDab 0 0x53 d.number a.val (if s then 1 else 0))
  | .sadd d a b e t => some (encStream 0x54 d.val a.val b.val e (encStreamTy t))
  | .smul d a b e t => some (encStream 0x55 d.val a.val b.val e (encStreamTy t))
  | .sfma d a b e t => some (encStream 0x56 d.val a.val b.val e (encStreamTy t))
  | .scpy d a e => some (encStream 0x57 d.val a.val 0 e none)
  | .fadd d a b r => some (encDabM 1 0x00 d.number a.number b.number (mdxFor r.code false 0 0))
  | .fsub d a b r => some (encDabM 1 0x01 d.number a.number b.number (mdxFor r.code false 0 0))
  | .fmul d a b r => some (encDabM 1 0x02 d.number a.number b.number (mdxFor r.code false 0 0))
  | .ffma d a b r => some (encDabM 1 0x03 d.number a.number b.number (mdxFor r.code false 0 0))
  | .fdiv d a b r => some (encDabM 1 0x04 d.number a.number b.number (mdxFor r.code false 0 0))
  | .fsqrt d a r => some (encDabM 1 0x05 d.number a.number 0 (mdxFor r.code false 0 0))
  | .fmin d a b => some (encDab 1 0x06 d.number a.number b.number)
  | .fmax d a b => some (encDab 1 0x07 d.number a.number b.number)
  | .feq d a b => some (encDab 1 0x08 d.number a.number b.number)
  | .flt d a b => some (encDab 1 0x09 d.number a.number b.number)
  | .fle d a b => some (encDab 1 0x0A d.number a.number b.number)
  | .fclass d a => some (encDab 1 0x0B d.number a.number 0)
  | .ftoi d a r s => some (encDabM 1 0x0C d.number a.number 0 (mdxFor r.code s 0 0))
  | .itof d a r s => some (encDabM 1 0x0D d.number a.number 0 (mdxFor r.code s 0 0))
  | .fcvt d a r s t u => some (encDabM 1 0x0E d.number a.number 0 (mdxFor r.code s t.code u.code))
  | .fexp2 d a r => some (encDabM 1 0x0F d.number a.number 0 (mdxFor r.code false 0 0))
  | .flog2 d a r => some (encDabM 1 0x10 d.number a.number 0 (mdxFor r.code false 0 0))
  | .frcp d a r => some (encDabM 1 0x11 d.number a.number 0 (mdxFor r.code false 0 0))
  | .frsq d a r => some (encDabM 1 0x12 d.number a.number 0 (mdxFor r.code false 0 0))
  | .twosum d a b => some (encDab 1 0x13 d.number a.number b.number)
  | .twoprod d a b => some (encDab 1 0x14 d.number a.number b.number)
  | .vadd d a b m => some (encDabM 2 0x00 d.val a.val b.val (encVMod m false))
  | .vsub d a b m => some (encDabM 2 0x01 d.val a.val b.val (encVMod m false))
  | .vmul d a b m => some (encDabM 2 0x02 d.val a.val b.val (encVMod m false))
  | .vfma d a b m => some (encDabM 2 0x03 d.val a.val b.val (encVMod m false))
  | .vmin d a b m => some (encDabM 2 0x04 d.val a.val b.val (encVMod m false))
  | .vmax d a b m => some (encDabM 2 0x05 d.val a.val b.val (encVMod m false))
  | .vand d a b => some (encDab 2 0x06 d.val a.val b.val)
  | .vor d a b => some (encDab 2 0x07 d.val a.val b.val)
  | .vxor d a b => some (encDab 2 0x08 d.val a.val b.val)
  | .vshl d a b => some (encDab 2 0x09 d.val a.val b.val)
  | .vshr d a b => some (encDab 2 0x0A d.val a.val b.val)
  | .vcmp d a b c i => some ⟨2, rgxFor 0 0 0 c.code 0, mdxFor 0 false (if i then 6 else 0) 0, [], 0x0B,
      k9For d.val a.val b.val⟩
  | .vsel d a b => some (encDab 2 0x0C d.val a.val b.val)
  | .vcvt d a r s t u => some (encDabM 2 0x0D d.val a.val 0 (mdxFor r.code s t.code u.code))
  | .vexp2 d a r p => some (encDabM 2 0x0E d.val a.val 0 (encVMod ⟨false, r, p⟩ false))
  | .vlog2 d a r p => some (encDabM 2 0x0F d.val a.val 0 (encVMod ⟨false, r, p⟩ false))
  | .vrcp d a r p => some (encDabM 2 0x10 d.val a.val 0 (encVMod ⟨false, r, p⟩ false))
  | .vrsum d a m x => some (encDabM 2 0x11 d.number a.val 0 (encVMod m x))
  | .vrmax d a m x => some (encDabM 2 0x12 d.number a.val 0 (encVMod m x))
  | .vscan d a m => some (encDabM 2 0x13 d.val a.val 0 (encVMod m false))
  | .vbcst d a => some (encDab 2 0x14 d.val a.number 0)
  | .vperm d a b => some (encDab 2 0x15 d.val a.val b.val)
  | .vld d m s t => some (encVMem 0x16 d m s t none)
  | .vst d m t => some (encVMem 0x17 d m false t none)
  | .vgth d m s e t => some (encVMem 0x18 d m s t (some e))
  | .vsct d m e t => some (encVMem 0x19 d m false t (some e))
  | .vmvg d a b => some (encDab 2 0x1A d.number a.val b.number)
  | .vsetl a => some (encDab 2 0x1B 0 a.number 0)
  | .vacq => some (encDab 2 0x1C 0 0 0)
  | .mxcfg d e => some (encDabE 3 0x00 d.number 0 0 e)
  | .mxld d a e => some (encDabE 3 0x01 d.number a.number 0 e)
  | .mxmul d a b e => some (encDabE 3 0x02 d.number a.number b.number e)
  | .mxdr d a e r s => some { encDabE 3 0x03 d.number a.number 0 e with mdx := mdxFor r.code s 0 0 }
  | .mxdra d a e => some (encDabE 3 0x04 d.number a.number 0 e)
  | .mxqry d a => some (encDab 3 0x05 d.number a.number 0)
  | .cpget d a b e => some (encDabE 3 0x08 d.number a.number b.number e)
  | .cpput d a b e => some (encDabE 3 0x09 d.number a.number b.number e)
  | .cpfst d a b e => some (encDabE 3 0x0A d.number a.number b.number e)
  | .cpfill d a b e => some (encDabE 3 0x0B d.number a.number b.number e)
  | .gld d a => some (encDab 3 0x10 d.number a.number 0)
  | .gldd d a => some (encDab 3 0x11 d.number a.number 0)
  | .gst d a e => some (encDabE 3 0x12 d.number a.number 0 e)
  | .gstd d a e => some (encDabE 3 0x13 d.number a.number 0 e)
  | .gstmc d a b e => some (encDabE 3 0x14 d.number a.number b.number e)
  | .amadd d a b e => some (encDabE 3 0x18 d.number a.number b.number e)
  | .amswp d a b e => some (encDabE 3 0x19 d.number a.number b.number e)
  | .amcas d a b e => some (encDabE 3 0x1A d.number a.number b.number e)
  | .ammax d a b e => some (encDabE 3 0x1B d.number a.number b.number e)
  | .ammin d a b e => some (encDabE 3 0x1C d.number a.number b.number e)
  | .amor d a b e => some (encDabE 3 0x1D d.number a.number b.number e)
  | .amand d a b e => some (encDabE 3 0x1E d.number a.number b.number e)
  | .nadd d a b => some (encDab 3 0x20 d.number a.number b.number)
  | .ncas d a b => some (encDab 3 0x21 d.number a.number b.number)
  | .nswp d a b => some (encDab 3 0x22 d.number a.number b.number)
  | .step => some (encDab 3 0x28 0 0 0)
  | .stepw => some (encDab 3 0x29 0 0 0)
  | .stepq d s => some (encDab 3 0x2A d.number 0 s.val)
  | .bara d b => some ⟨3, rgxFor d.number 0 0 0 0, none, [], 0x30, 64 * (d.number % 8) + b.val⟩
  | .barw d b => some ⟨3, rgxFor d.number 0 0 0 0, none, [], 0x31, 64 * (d.number % 8) + b.val⟩
  | .bari d b => some ⟨3, rgxFor d.number 0 0 0 0, none, [], 0x32, 64 * (d.number % 8) + b.val⟩
  | .tset d a n e => some ⟨3, some ⟨d.number / 8, a.number / 8, n.val / 8, e.number⟩, none, [], 0x38,
      k9For d.number a.number n.val⟩
  | .tdec d a b => some (encDab 3 0x39 d.number a.number b.number)
  | .launch d a e => some (encDabE 3 0x3A d.number a.number 0 e)
  | .trap z => some (encJl 4 0x00 .Z z)
  | .brk z => some (encJl 4 0x01 .Z z)
  | .fence0 => some ⟨4, none, none, [], 0x02, 0⟩
  | .fence1 => some ⟨4, none, none, [], 0x02, 1⟩
  | .csrr d z => some (encDk 4 0x03 d.number .Z z)
  | .csrw d z => some (encDk 4 0x04 d.number .Z z)
  | .pwrq d s => some ⟨4, rgxFor d.number 0 0 0 0, none, [], 0x05, 64 * (d.number % 8) + s.val⟩
  | .svsend d a n => some (encDab 4 0x10 d.number a.number n.val)
  | .redlv d a e => some (encDabE 4 0x11 d.number a.number 0 e)
  | .stabt a b e => some (encDabE 4 0x12 0 a.number b.number e)
  | .stcmt a b e => some (encDabE 4 0x13 0 a.number b.number e)
  | .mapw d a e => some (encDabE 4 0x14 d.number a.number 0 e)
  | .pqdataRead d => some (encDk 4 0x03 d.number .Z 0x10D)
  | .pqdataWrite d => some (encDk 4 0x04 d.number .Z 0x10D)
  | .cycleRead d => some (encDk 4 0x03 d.number .Z 0x010)
  | .fqbaseWrite d => some (encDk 4 0x04 d.number .Z 0x120)
  | .fqheadWrite d => some (encDk 4 0x04 d.number .Z 0x121)
  | _ => none

/-- The parcels of the fields, in the order PGX, RGX, MDX, IMX, IMX, parcel (R289). -/
def Raw.parcels (r : Raw) : List Parcel :=
  (if r.page = 0 then [] else [BitVec.ofNat 16 (0xF000 + 128 * r.page)])
  ++ (match r.rgx with
      | some x => [BitVec.ofNat 16 (0xE800 + 512 * x.dh + 128 * x.ah + 32 * x.bh + x.e)]
      | none => [])
  ++ (match r.mdx with
      | some m => [BitVec.ofNat 16 (0xF800 + 256 * m.rnd + (if m.sat then 128 else 0) + 16 * m.ty + m.spec)]
      | none => [])
  ++ r.imx.map (fun x => BitVec.ofNat 16 (0xE000 + x))
  ++ [BitVec.ofNat 16 (512 * r.op + r.k9)]

/-- The parcels of a well-formed instruction of the cores; none for an operation of the device. -/
def encode (i : Instr) : List Parcel :=
  match encodeRaw i with
  | some r => r.parcels
  | none => []

/-- The parcels of the bits of an opcode-table word: bit 0 is the least significant bit of the first parcel; the
bits above nbits are 0, up to the longest instruction. -/
def tableParcels (nbits w : Nat) : List Parcel :=
  (List.range 6).map fun i => BitVec.ofNat 16 (w % 2 ^ nbits / 2 ^ (16 * i))

/-- The instruction that the decoder reads from an opcode-table word. -/
def decodeTableWord (nbits w : Nat) : Option Instr :=
  match decode (tableParcels nbits w) with
  | .ok (i, _) => some i
  | .error _ => none

end Sys2Proof
end

