-- ==== Sys2Proof/Machine/Flags.lean ====
section
/-! DEFINITION. Sys2Proof/Machine/Flags.lean: the five sticky flags of FFLAGS (R63, R159), from bit 4 down to bit 0:
NV, DZ, OF, UF, NX. -/

namespace Sys2Proof.Machine

/-- The flags of FFLAGS. -/
abbrev Flags := BitVec 5

/-- Inexact. -/
def flagNX : Flags := 1
/-- Underflow. -/
def flagUF : Flags := 2
/-- Overflow. -/
def flagOF : Flags := 4
/-- Division by zero. -/
def flagDZ : Flags := 8
/-- Invalid. -/
def flagNV : Flags := 16

/-- A flag under a condition. -/
def flagIf (c : Bool) (f : Flags) : Flags := if c then f else 0

/-- OR flags into FFLAGS of a context (R159). -/
def Ctx.addFlags (x : Ctx) (f : Flags) : Ctx := { x with fflags := x.fflags ||| f }

end Sys2Proof.Machine
end

