-- ==== Sys2Proof/Machine/Numeric.lean ====
section
/-! DEFINITION. Sys2Proof/Machine/Numeric.lean: number formats, exact values, rounding and conversions, and the
arithmetic of the scalar, stream, vector and matrix units (R143 to R171). Values are computed exactly as dyadic
numbers and rounded once. -/

namespace Sys2Proof

/-! ## Formats (R143, R145, R147) -/

/-- Width of a format in bits (R143). -/
def Fmt.width : Fmt → Nat
  | .fp32 => 32 | .bf16 => 16 | .fp16 => 16 | .e4m3 => 8 | .e5m2 => 8 | .e2m1 => 4
  | .i32 => 32 | .i8 => 8 | .i16 => 16 | .i4 => 4

/-- An integer format. -/
def Fmt.isInt : Fmt → Bool
  | .i32 => true | .i8 => true | .i16 => true | .i4 => true | _ => false

/-- Fraction width m (R145). -/
def Fmt.frac : Fmt → Nat
  | .fp32 => 23 | .bf16 => 7 | .fp16 => 10 | .e4m3 => 3 | .e5m2 => 2 | .e2m1 => 1 | _ => 0

/-- Exponent bias b (R145). -/
def Fmt.bias : Fmt → Nat
  | .fp32 => 127 | .bf16 => 127 | .fp16 => 15 | .e4m3 => 7 | .e5m2 => 15 | .e2m1 => 1 | _ => 0

/-- The format has infinities (R145). -/
def Fmt.hasInf : Fmt → Bool
  | .fp32 => true | .bf16 => true | .fp16 => true | .e5m2 => true | _ => false

/-- Bits of the largest finite value, sign apart (R147). -/
def Fmt.maxBits : Fmt → Nat
  | .fp32 => 0x7F7FFFFF | .bf16 => 0x7F7F | .fp16 => 0x7BFF | .e4m3 => 0x7E | .e5m2 => 0x7B | .e2m1 => 0x7 | _ => 0

/-- Bits of +∞; for a format without infinities what replaces it under R154: the NaN of E4M3, 6 of E2M1. -/
def Fmt.infBits : Fmt → Nat
  | .fp32 => 0x7F800000 | .bf16 => 0x7F80 | .fp16 => 0x7C00 | .e4m3 => 0x7F | .e5m2 => 0x7C | .e2m1 => 0x7 | _ => 0

/-- Bits of the canonical NaN (R147); E2M1 has none and takes +0 (R160). -/
def Fmt.nanBits : Fmt → Nat
  | .fp32 => 0x7FC00000 | .bf16 => 0x7FC0 | .fp16 => 0x7E00 | .e4m3 => 0x7F | .e5m2 => 0x7E | _ => 0

/-- Put the sign bit of a format; the NaN of E4M3 stays 0x7F. -/
def Fmt.withSign (f : Fmt) (neg : Bool) (bits : Nat) : Nat :=
  if neg && !(f == .e4m3 && bits == 0x7F) then bits + 2 ^ (f.width - 1) else bits

/-- The exact value of an encoding (R146). -/
def Fmt.value (f : Fmt) (bits : Nat) : Machine.XVal :=
  let b := bits % 2 ^ f.width
  let neg := b / 2 ^ (f.width - 1) == 1
  let mag := b % 2 ^ (f.width - 1)
  let e := mag / 2 ^ f.frac
  let fr := mag % 2 ^ f.frac
  if f.hasInf && mag == f.infBits then .inf neg
  else if f.hasInf && decide (f.infBits < mag) then .nan
  else if f == .e4m3 && mag == 0x7F then .nan
  else if e = 0 then .fin neg fr (1 - (f.bias : Int) - f.frac)
  else .fin neg (2 ^ f.frac + fr) ((e : Int) - f.bias - f.frac)

/-- The signed value of an integer encoding (R150). -/
def Fmt.intValue (f : Fmt) (bits : Nat) : Int := signed f.width (bits % 2 ^ f.width)

end Sys2Proof

namespace Sys2Proof.Machine

/-- An integer as an exact value. -/
def XVal.ofInt (z : Int) : XVal := .fin (decide (z < 0)) z.natAbs 0

/-! ## Rounding (R151 to R155) -/

/-- Whether to round away from zero: n is the kept integer, r the remainder below 2^sh, draw the generator's bits
[63:32] for SR. -/
def roundUp (rnd : Rnd) (neg : Bool) (n r sh : Nat) (draw : Nat) : Bool :=
  match rnd with
  | .rne => decide (2 ^ sh < 2 * r) || (2 * r == 2 ^ sh && n % 2 == 1)
  | .rtz => false
  | .rup => !neg && r != 0
  | .rdn => neg && r != 0
  | .rna => decide (2 ^ sh ≤ 2 * r)
  | .sr => decide (draw < r * 2 ^ 32 / 2 ^ sh)

/-- A rounded result: bits of the destination format, flags, and whether a draw was taken. -/
structure Rounded where
  bits : Nat
  flags : Flags
  drew : Bool
  deriving DecidableEq, Repr

/-- The result of an overflow (R154); away: rounded away from zero, for SR. -/
def overflowBits (f : Fmt) (rnd : Rnd) (sat neg away : Bool) : Nat :=
  let big := f.withSign neg f.maxBits
  let inf := f.withSign neg f.infBits
  if sat then big
  else match rnd with
    | .rne => inf
    | .rna => inf
    | .rtz => big
    | .rup => if neg then big else inf
    | .rdn => if neg then inf else big
    | .sr => if away then inf else big

/-- Round an exact nonzero finite magnitude mant × 2^exp to a format (R152, R155). -/
def roundFin (f : Fmt) (rnd : Rnd) (sat neg : Bool) (mant : Nat) (exp : Int) (draw : Nat) : Rounded :=
  let emin : Int := 1 - (f.bias : Int)
  let e : Int := (Nat.log2 mant : Int) + exp
  let q : Int := max e emin - f.frac
  let sh : Nat := (q - exp).toNat
  let n0 : Nat := if q ≤ exp then mant * 2 ^ (exp - q).toNat else mant / 2 ^ sh
  let r : Nat := if q ≤ exp then 0 else mant % 2 ^ sh
  let up := r != 0 && roundUp rnd neg n0 r sh draw
  let n := if up then n0 + 1 else n0
  let bits := (q - (emin - f.frac)).toNat * 2 ^ f.frac + n
  if f.maxBits < bits then ⟨overflowBits f rnd sat neg up, flagOF ||| flagNX, rnd == .sr && r != 0⟩
  else
    ⟨f.withSign neg bits,
      flagIf (r != 0) flagNX ||| flagIf (r != 0 && n != 0 && decide (bits < 2 ^ f.frac)) flagUF,
      rnd == .sr && r != 0⟩

/-- Round an exact value to a format: NaN gives the canonical NaN and ±∞ the infinity, with no flag. -/
def roundX (f : Fmt) (rnd : Rnd) (sat : Bool) (x : XVal) (draw : Nat) : Rounded :=
  match x with
  | .nan => ⟨f.nanBits, 0, false⟩
  | .inf neg => ⟨f.withSign neg f.infBits, 0, false⟩
  | .fin neg 0 _ => ⟨f.withSign neg 0, 0, false⟩
  | .fin neg (m + 1) e => roundFin f rnd sat neg (m + 1) e draw

/-- Round an exact finite value to an integer (R161): the integer, and whether it is exact, and the draw. -/
def roundInt (rnd : Rnd) (neg : Bool) (mant : Nat) (exp : Int) (draw : Nat) : Int × Bool × Bool :=
  if 0 ≤ exp then ((if neg then -1 else 1) * ((mant * 2 ^ exp.toNat : Nat) : Int), true, false)
  else
    let sh := (-exp).toNat
    let n0 := mant / 2 ^ sh
    let r := mant % 2 ^ sh
    let n := if r != 0 && roundUp rnd neg n0 r sh draw then n0 + 1 else n0
    ((if neg then -1 else 1) * (n : Int), r == 0, rnd == .sr && r != 0)

/-- The low bits of an integer. -/
def intBits (w : Nat) (z : Int) : Nat := (z % 2 ^ w).toNat

/-- An integer clamped to w bits two's complement. -/
def clampInt (w : Nat) (z : Int) : Int := max (-(2 ^ (w - 1) : Int)) (min (2 ^ (w - 1) - 1) z)

/-- Floating point to an integer format (R161). -/
def toIntFmt (f : Fmt) (rnd : Rnd) (x : XVal) (draw : Nat) : Rounded :=
  match x with
  | .nan => ⟨0, flagNV, false⟩
  | .inf neg => ⟨intBits f.width (if neg then -(2 ^ (f.width - 1) : Int) else 2 ^ (f.width - 1) - 1), flagNV, false⟩
  | .fin neg m e =>
    let (z, exact, drew) := roundInt rnd neg m e draw
    let c := clampInt f.width z
    if c = z then ⟨intBits f.width z, flagIf (!exact) flagNX, drew⟩ else ⟨intBits f.width c, flagNV, drew⟩

/-- Floating point to a floating-point format (R160). -/
def toFloatFmt (f : Fmt) (rnd : Rnd) (sat : Bool) (x : XVal) (draw : Nat) : Rounded :=
  match x with
  | .nan => ⟨f.nanBits, flagIf (f == .e2m1) flagNV, false⟩
  | .inf neg =>
    if f == .e2m1 then ⟨f.withSign neg f.maxBits, flagNV, false⟩
    else if f == .e4m3 then ⟨if sat then f.withSign neg f.maxBits else f.nanBits, flagNV, false⟩
    else if sat then ⟨f.withSign neg f.maxBits, flagOF ||| flagNX, false⟩
    else ⟨f.withSign neg f.infBits, 0, false⟩
  | x => roundX f rnd sat x draw

/-- Integer to an integer format: the low bits, or clamped (R161). -/
def intToInt (f : Fmt) (sat : Bool) (z : Int) : Rounded :=
  ⟨intBits f.width (if sat then clampInt f.width z else z), 0, false⟩

/-- Convert between formats (R160, R161). One floating-point format on both sides leaves the value unchanged, but for a NaN
(R328). -/
def convert (src dst : Fmt) (rnd : Rnd) (sat : Bool) (bits draw : Nat) : Rounded :=
  if src.isInt then
    if dst.isInt then intToInt dst sat (src.intValue bits)
    else roundX dst rnd sat (XVal.ofInt (src.intValue bits)) draw
  else if dst.isInt then toIntFmt dst rnd (src.value bits) draw
  else if src = dst ∧ src.value bits ≠ .nan then ⟨bits % 2 ^ src.width, 0, false⟩
  else toFloatFmt dst rnd sat (src.value bits) draw

/-- How a narrow result stands in a register (R144, R328). -/
def placeBits (f : Fmt) (bits : Nat) : Word :=
  if f.isInt then wInt (signed f.width (bits % 2 ^ f.width)) else w32 (bits % 2 ^ f.width)

/-! ## Exact arithmetic -/

namespace XVal

/-- A finite value as an integer multiple of 2^e. -/
def scaled (neg : Bool) (m : Nat) (x e : Int) : Int :=
  (if neg then -1 else 1) * ((m * 2 ^ (x - e).toNat : Nat) : Int)

/-- Negation. -/
def neg : XVal → XVal
  | nan => nan
  | inf s => inf (!s)
  | fin s m e => fin (!s) m e

/-- It is a NaN. -/
def isNan : XVal → Bool
  | nan => true
  | _ => false

/-- It is finite. -/
def isFin : XVal → Bool
  | fin _ _ _ => true
  | _ => false

/-- It is zero. -/
def isZero : XVal → Bool
  | fin _ 0 _ => true
  | _ => false

/-- Exact sum, and whether it is invalid (∞ - ∞). rdn: the zero-sign rule of RDN (R153). -/
def add (rdn : Bool) : XVal → XVal → XVal × Bool
  | nan, _ => (nan, false)
  | _, nan => (nan, false)
  | inf s, inf t => if s == t then (inf s, false) else (nan, true)
  | inf s, fin _ _ _ => (inf s, false)
  | fin _ _ _, inf t => (inf t, false)
  | fin s m x, fin t n y =>
    let e := min x y
    let z := scaled s m x e + scaled t n y e
    if z = 0 then (if m = 0 && n = 0 && s == t then fin s 0 0 else fin rdn 0 0, false)
    else (fin (decide (z < 0)) z.natAbs e, false)

/-- Exact product, and whether it is invalid (0 × ∞). -/
def mul : XVal → XVal → XVal × Bool
  | nan, _ => (nan, false)
  | _, nan => (nan, false)
  | inf s, inf t => (inf (s != t), false)
  | inf s, fin t n _ => if n = 0 then (nan, true) else (inf (s != t), false)
  | fin s m _, inf t => if m = 0 then (nan, true) else (inf (s != t), false)
  | fin s m x, fin t n y => (fin (s != t) (m * n) (x + y), false)

/-- Multiply by a power of two. -/
def scale (k : Int) : XVal → XVal
  | fin s m e => fin s m (e + k)
  | x => x

end XVal

/-- A result of FP32 arithmetic: bits and flags. -/
abbrev FRes := Word × Flags

/-- Round an exact value to FP32 under a mode. -/
def round32 (rnd : Rnd) (x : XVal) : FRes :=
  let r := roundX .fp32 rnd false x 0
  (w32 r.bits, r.flags)

/-- The value of an FP32 word. -/
def fval (w : Word) : XVal := Fmt.fp32.value w.toNat

/-- The canonical NaN of FP32 (R148). -/
def nan32 : Word := 0x7FC0_0000

/-- Finish an operation: NV on an invalid case, else the rounded exact value (R162). -/
def finish32 (rnd : Rnd) (r : XVal × Bool) : FRes := if r.2 then (nan32, flagNV) else round32 rnd r.1

/-- FADD (R324). -/
def fAdd (rnd : Rnd) (x y : Word) : FRes := finish32 rnd (XVal.add (rnd == .rdn) (fval x) (fval y))
/-- FSUB: FADD with the sign of y inverted (R324). -/
def fSub (rnd : Rnd) (x y : Word) : FRes := finish32 rnd (XVal.add (rnd == .rdn) (fval x) (fval y).neg)
/-- FMUL. -/
def fMul (rnd : Rnd) (x y : Word) : FRes := finish32 rnd (XVal.mul (fval x) (fval y))
/-- FFMA: x × y + z, one rounding; an invalid product sets NV whatever z is (R162). -/
def fFma (rnd : Rnd) (x y z : Word) : FRes :=
  let p := XVal.mul (fval x) (fval y)
  if p.2 then (nan32, flagNV) else finish32 rnd (XVal.add (rnd == .rdn) p.1 (fval z))

/-- A quotient m / n of positive integers as a dyadic number whose lowest bit stands for a remainder. -/
def quotient (neg : Bool) (m : Nat) (x : Int) (n : Nat) (y : Int) : XVal :=
  let k := 64 + Nat.log2 n
  let q := m * 2 ^ k / n
  let r := m * 2 ^ k % n
  .fin neg (2 * q + (if r = 0 then 0 else 1)) (x - y - k - 1)

/-- FDIV (R162). -/
def fDiv (rnd : Rnd) (x y : Word) : FRes :=
  match fval x, fval y with
  | .nan, _ => (nan32, 0)
  | _, .nan => (nan32, 0)
  | .inf _, .inf _ => (nan32, flagNV)
  | .inf s, .fin t _ _ => round32 rnd (.inf (s != t))
  | .fin s _ _, .inf t => round32 rnd (.fin (s != t) 0 0)
  | .fin s m x, .fin t n y =>
    if n = 0 then
      if m = 0 then (nan32, flagNV) else ((round32 rnd (.inf (s != t))).1, flagDZ)
    else if m = 0 then round32 rnd (.fin (s != t) 0 0)
    else round32 rnd (quotient (s != t) m x n y)

/-- One bit of an integer square root: try bit i of the root. -/
def sqrtBit (m acc i : Nat) : Nat := if (acc + 2 ^ i) * (acc + 2 ^ i) ≤ m then acc + 2 ^ i else acc

/-- The integer square root of m, bit by bit from bit n - 1. -/
def isqrt (m : Nat) : Nat → Nat → Nat
  | 0, acc => acc
  | n + 1, acc => isqrt m n (sqrtBit m acc n)

/-- The integer square root. -/
def natSqrt (m : Nat) : Nat := isqrt m (Nat.log2 m / 2 + 1) 0

/-- √(m × 2^x) as a dyadic number whose lowest bit stands for a remainder. -/
def sqrtX (m : Nat) (x : Int) : XVal :=
  let odd := (x % 2).toNat
  let big := m * 2 ^ (odd + 80)
  let r := natSqrt big
  .fin false (2 * r + (if r * r = big then 0 else 1)) ((x - odd - 80) / 2 - 1)

/-- FSQRT (R162). -/
def fSqrt (rnd : Rnd) (x : Word) : FRes :=
  match fval x with
  | .nan => (nan32, 0)
  | .inf s => if s then (nan32, flagNV) else round32 rnd (.inf false)
  | .fin s m e => if m = 0 then round32 rnd (.fin s 0 0) else if s then (nan32, flagNV) else round32 rnd (sqrtX m e)

/-- FRCP (R163). -/
def fRcp (rnd : Rnd) (x : Word) : FRes :=
  match fval x with
  | .nan => (nan32, 0)
  | .inf s => round32 rnd (.fin s 0 0)
  | .fin s m e => if m = 0 then ((round32 rnd (.inf s)).1, flagDZ) else round32 rnd (quotient s 1 0 m e)

/-- 1 / √(m × 2^x) as a dyadic number whose lowest bit stands for a remainder. -/
def rsqrtX (m : Nat) (x : Int) : XVal :=
  let odd := (x % 2).toNat
  let m' := m * 2 ^ odd
  let k := 80 + Nat.log2 m'
  let r := natSqrt (2 ^ (2 * k) / m')
  .fin false (2 * r + (if r * r * m' = 2 ^ (2 * k) then 0 else 1)) (-((x - odd) / 2) - k - 1)

/-- FRSQ (R163). -/
def fRsq (rnd : Rnd) (x : Word) : FRes :=
  match fval x with
  | .nan => (nan32, 0)
  | .inf s => if s then (nan32, flagNV) else round32 rnd (.fin false 0 0)
  | .fin s m e =>
    if m = 0 then ((round32 rnd (.inf s)).1, flagDZ) else if s then (nan32, flagNV) else round32 rnd (rsqrtX m e)

/-- Fixed-point precision of the series below, in bits (assumption 21: more than any case of FP32 needs). -/
def fixBits : Nat := 256

/-- atanh of num / den, for num / den at most 1/3, in units of 2^-fixBits: Σ z^(2i+1) / (2i+1). -/
def atanhSeries (num den : Nat) : Nat → Nat → Nat → Nat → Nat
  | 0, _, _, acc => acc
  | n + 1, pow, i, acc =>
    atanhSeries num den n (pow * num * num / (den * den)) (i + 1) (acc + pow / (2 * i + 1))

/-- atanh (num / den) in units of 2^-fixBits. -/
def atanhFix (num den : Nat) : Nat := atanhSeries num den 90 (2 ^ fixBits * num / den) 0 0

/-- ln 2 = 2 atanh (1/3) in units of 2^-fixBits. -/
def ln2Fix : Nat := 2 * atanhFix 1 3

/-- e^t for t in [0, 1), by its series, in units of 2^-fixBits. -/
def expSeries (t : Nat) : Nat → Nat → Nat → Nat → Nat
  | 0, _, _, acc => acc
  | n + 1, term, i, acc => expSeries t n (term * t / 2 ^ fixBits / (i + 1)) (i + 1) (acc + term)

/-- 2^x for a finite nonzero x (R163): exact for integers; otherwise a dyadic number whose lowest bit stands for the
rest. Arguments beyond the range give values that overflow or underflow. -/
def exp2X (s : Bool) (m : Nat) (e : Int) : XVal :=
  if 0 ≤ e then
    let n := m * 2 ^ (min e 20).toNat
    if s then (if 400 < n then .fin false 1 (-400) else .fin false 1 (-(n : Int)))
    else (if 400 < n then .fin false 1 400 else .fin false 1 n)
  else
    let sh := (-e).toNat
    if m % 2 ^ sh = 0 then
      let n := m / 2 ^ sh
      if s then (if 400 < n then .fin false 1 (-400) else .fin false 1 (-(n : Int)))
      else (if 400 < n then .fin false 1 400 else .fin false 1 n)
    else if (Nat.log2 m : Int) + e < -40 then
      if s then .fin false (2 ^ 80 - 1) (-80) else .fin false (2 ^ 80 + 1) (-80)
    else
      let ip := m / 2 ^ sh
      let fr := m % 2 ^ sh
      let i : Int := if s then -(ip : Int) - 1 else ip
      let f := if s then 2 ^ sh - fr else fr
      if i < -400 then .fin false 3 (-401) else if 400 < i then .fin false 3 399
      else
        let t := f * ln2Fix / 2 ^ sh
        .fin false (2 * expSeries t 70 (2 ^ fixBits) 0 0 + 1) (i - fixBits - 1)

/-- FEXP2 (R163). -/
def fExp2 (rnd : Rnd) (x : Word) : FRes :=
  match fval x with
  | .nan => (nan32, 0)
  | .inf s => if s then round32 rnd (.fin false 0 0) else round32 rnd (.inf false)
  | .fin s m e => if m = 0 then (0x3F80_0000, 0) else round32 rnd (exp2X s m e)

/-- log2 of m × 2^e, m nonzero (R163): exact for powers of two. -/
def log2X (m : Nat) (e : Int) : XVal :=
  let l := Nat.log2 m
  let n : Int := (l : Int) + e
  if m = 2 ^ l then XVal.ofInt n
  else
    let ln := 2 * atanhFix (m - 2 ^ l) (m + 2 ^ l)
    let v : Int := n * 2 ^ fixBits + ((ln * 2 ^ fixBits / ln2Fix : Nat) : Int)
    .fin (decide (v < 0)) (2 * v.natAbs + 1) (-(fixBits : Int) - 1)

/-- FLOG2 (R163). -/
def fLog2 (rnd : Rnd) (x : Word) : FRes :=
  match fval x with
  | .nan => (nan32, 0)
  | .inf s => if s then (nan32, flagNV) else round32 rnd (.inf false)
  | .fin s m e =>
    if m = 0 then ((round32 rnd (.inf true)).1, flagDZ) else if s then (nan32, flagNV) else round32 rnd (log2X m e)

/-! ## Minimum, maximum and comparisons (R164) -/

/-- An FP32 word is a NaN. -/
def isNan32 (w : Word) : Bool := (fval w).isNan

/-- Order of FP32 words that are no NaN, with +0 above -0. -/
def ordKey (w : Word) : Int :=
  let mag := (w.toNat % 2 ^ 31 : Nat)
  if w.getLsbD 31 then -1 - (mag : Int) else mag

/-- Order of FP32 words that are no NaN, with +0 equal to -0. -/
def cmpKey (w : Word) : Int :=
  let mag := (w.toNat % 2 ^ 31 : Nat)
  if w.getLsbD 31 then -(mag : Int) else mag

/-- FMIN and FMAX. -/
def fMinMax (isMax : Bool) (x y : Word) : FRes :=
  if isNan32 x || isNan32 y then (nan32, 0)
  else if isMax then (if ordKey x ≥ ordKey y then x else y, 0) else (if ordKey x ≤ ordKey y then x else y, 0)

/-- A truth value as a word. -/
def boolWord (b : Bool) : Word := if b then 1 else 0

/-- FEQ, FLT, FLE: FLT and FLE set NV for a NaN. -/
def fCompare (c : Cond) (x y : Word) : FRes :=
  if isNan32 x || isNan32 y then (0, match c with | .eq => 0 | .lt => flagNV | .le => flagNV)
  else (match c with
    | .eq => boolWord (cmpKey x == cmpKey y)
    | .lt => boolWord (decide (cmpKey x < cmpKey y))
    | .le => boolWord (decide (cmpKey x ≤ cmpKey y)), 0)

/-- FCLASS (R326): one bit of [8:0]. -/
def fClass (x : Word) : Word :=
  match fval x with
  | .nan => 0x100
  | .inf s => if s then 0x001 else 0x080
  | .fin s m _ =>
    if m = 0 then (if s then 0x008 else 0x010)
    else if m < 2 ^ 23 then (if s then 0x004 else 0x020)
    else (if s then 0x002 else 0x040)

/-- FTOI (R327). -/
def fToI (rnd : Rnd) (x : Word) : FRes :=
  let r := toIntFmt .i32 rnd (fval x) 0
  (w32 r.bits, r.flags)

/-- ITOF (R327). -/
def iToF (rnd : Rnd) (x : Word) : FRes := round32 rnd (XVal.ofInt x.toInt)

/-- TwoSum (R168). -/
def twoSum (x y : Word) : Word × Word × Flags :=
  let v := XVal.add false (fval x) (fval y)
  let (s, fl) := finish32 .rne v
  if (fval s).isFin then
    let err := XVal.add false v.1 (fval s).neg
    (s, if err.1.isZero then 0 else (round32 .rne err.1).1, fl)
  else (s, 0, fl)

/-- TWOPROD (R392). -/
def twoProd (x y : Word) : Word × Word × Flags :=
  let v := XVal.mul (fval x) (fval y)
  let (hi, fl) := finish32 .rne v
  if (fval hi).isFin then
    let err := XVal.add false v.1 (fval hi).neg
    (hi, if err.1.isZero then 0 else (round32 .rne err.1).1, fl)
  else (hi, 0, fl)

/-! ## Integer results -/

/-- Signed minimum and maximum of words. -/
def sMinMax (isMax : Bool) (x y : Word) : Word :=
  if isMax then (if x.toInt ≥ y.toInt then x else y) else (if x.toInt ≤ y.toInt then x else y)

/-- Unsigned minimum and maximum of words. -/
def uMinMax (isMax : Bool) (x y : Word) : Word :=
  if isMax then (if x.toNat ≥ y.toNat then x else y) else (if x.toNat ≤ y.toNat then x else y)

/-- A result of INT32: wrapping, or clamped to the signed range (R55). -/
def finishInt (sat : Bool) (z : Int) : Word := wInt (if sat then clampInt 32 z else z)

/-! ## The stochastic generator (R156) -/

/-- One draw: the new state, which is also the value returned. -/
def genDraw (x : BitVec 64) : BitVec 64 :=
  let x := x ^^^ (x <<< 13)
  let x := x ^^^ (x >>> 7)
  x ^^^ (x <<< 17)

/-- n draws. -/
def genDraws : Nat → BitVec 64 → BitVec 64
  | 0, x => x
  | n + 1, x => genDraws n (genDraw x)

/-- The seeded state of a placed cluster. -/
def genSeed (seed : BitVec 64) (rank : BitVec 22) (l0 : BitVec 16) : BitVec 64 :=
  let x := seed ^^^ (BitVec.ofNat 64 (rank.toNat * 2 ^ 32)) ^^^ (BitVec.ofNat 64 l0.toNat)
  genDraws 16 (if x = 0 then 0x9E37_79B9_7F4A_7C15 else x)

end Sys2Proof.Machine
end

