-- ==== Sys2Proof/Machine/Access.lean ====
section
/-! DEFINITION. Sys2Proof/Machine/Access.lean: checked accesses to local memory (R74, R75, R247), the undo log (R32,
R34), the registers of a context other than ports (R50), and draws from the cluster's generator (R156, R157). -/

namespace Sys2Proof.Machine

/-- What a load takes of the word that holds its bytes (R339). -/
def LoadPart.of (p : LoadPart) (w : Word) (at_ : Nat) : Word :=
  let x := w >>> (8 * (at_ % 4))
  match p with
  | .word => x
  | .half => (x.extractLsb' 0 16).signExtend 32
  | .halfU => (x.extractLsb' 0 16).setWidth 32
  | .byte => (x.extractLsb' 0 8).signExtend 32
  | .byteU => (x.extractLsb' 0 8).setWidth 32

/-! ## Registers (R50, R51, R53) -/

/-- Write a register that is no port: zr discards, cc and bd are never written (R50). -/
def Ctx.setReg (x : Ctx) (r : Reg) (v : Word) : Ctx :=
  match r with
  | .g n => { x with g := x.g.set n.val v n.isLt }
  | .lk => { x with lk := v }
  | _ => x

/-- Write a pair, low word first; zr discards (R51). -/
def Ctx.setPair (x : Ctx) (p : Pair) (lo hi : Word) : Ctx :=
  match p with
  | .even k => (x.setReg (.g ⟨2 * k.val, by omega⟩) lo).setReg (.g ⟨2 * k.val + 1, by omega⟩) hi
  | .zr => x

/-- The two registers of a pair. -/
def pairRegs : Pair → List (Fin 16)
  | .even k => [⟨2 * k.val, by omega⟩, ⟨2 * k.val + 1, by omega⟩]
  | .zr => []

/-- Advance a pointer by its stride (R53). -/
def Ctx.bump (x : Ctx) (p : PtrNo) : Ctx :=
  { x with pa := x.pa.set p.val (x.pa[p] + (x.ps[p]).signExtend 32) p.isLt }

namespace State

/-- Write a register of a context that is no port. -/
def setReg (s : State) (core c : Nat) (r : Reg) (v : Word) : State := s.updCtx core c fun x => x.setReg r v

/-! ## Check codes (R74, R75) -/

/-- Count a corrected error of a cluster, and report the threshold (R247). The count stops at 0xFFFF (assumption 17). -/
def countCorrected (s : State) (core : Nat) (b : Behalf) : State :=
  let cl := clusterOf core
  let x := s.cluster cl
  let n : BitVec 16 := if x.ceCnt = 0xFFFF then x.ceCnt else x.ceCnt + 1
  if x.ceThr ≠ 0 ∧ x.ceThr.toNat ≤ n.toNat then
    (s.updCluster cl fun x => { x with ceCnt := 0 }).coreEvent core b 36 (w32 n.toNat) (w32 b.unit)
  else s.updCluster cl fun x => { x with ceCnt := n }

/-- Count an uncorrectable word, poison its line and report it (R74). -/
def countUncorrectable (s : State) (core : Nat) (b : Behalf) (addr : Nat) : State :=
  let s := s.setLocalSide core addr { s.localSide core addr with p := true }
  let s := s.updCluster (clusterOf core) fun x =>
    { x with ueCnt := if x.ueCnt = 0xFFFF then x.ueCnt else x.ueCnt + 1 }
  s.coreEvent core b 37 (w32 addr) 0

/-- Four free bytes as a word, and the state with them drawn (R74, R75). -/
def freeWord (s : State) : Word × State :=
  (Config.freeByte (s.free + 3) ++ Config.freeByte (s.free + 2) ++ Config.freeByte (s.free + 1)
    ++ Config.freeByte s.free, { s with free := s.free + 4 })

/-- A read of the word that holds a local address (R74): the state, the word, and whether it is unusable; an unusable word
is a free value (assumption 10). -/
def readFor (s : State) (core : Nat) (b : Behalf) (addr : Nat) : State × Word × Bool :=
  let a := addr - addr % 4
  match (s.mem (placeOf core a)).err (offsetOf a) with
  | none => (s, s.localWord core a, false)
  | some .corrected =>
    ((s.updMem (placeOf core a) fun m => m.clearErr (offsetOf a)).countCorrected core b, s.localWord core a, false)
  | some .uncorrectable =>
    let (f, s) := s.freeWord
    (s.countUncorrectable core b a, f, true)

/-- A read by a unit for a context; c is 0 for an engine. -/
def readLocal (s : State) (core c unit addr : Nat) : State × Word × Bool := s.readFor core (s.onBehalf core c unit) addr

/-- The line at a local address is poisoned. -/
def poisoned (s : State) (core addr : Nat) : Bool := (s.localSide core addr).p
/-- The line at a local address is full. -/
def isFull (s : State) (core addr : Nat) : Bool := (s.localSide core addr).fe

/-- Put the bits of a mask into a word. -/
def merge (mask v old : Word) : Word := (old &&& ~~~mask) ||| (v &&& mask)

/-- Write the bits of a mask into the word that holds a local address: a plain word store when the mask is full, else a
read, a merge and a write back (R74, R75). -/
def storeMasked (s : State) (core c unit addr : Nat) (mask v : Word) : State :=
  let a := addr - addr % 4
  if mask = 0xFFFFFFFF then s.setLocalWord core a v
  else
    let (s, old, _) := s.readLocal core c unit a
    s.setLocalWord core a (merge mask v old)

end State

/-! ## The undo log (R32 to R34) -/

/-- The log holds the word at an address. -/
def wordLogged (log : List LogEntry) (a : Nat) : Bool :=
  log.any fun
    | .word b _ => b == a
    | .side _ _ => false

/-- The distinct words of a list that the log does not hold. -/
def newWords (log : List LogEntry) (as : List Nat) : List Nat :=
  (as.filter fun a => !wordLogged log a).eraseDups

namespace State

/-- A context logs a word, when its prefix lasts and the log does not hold the word (R32). -/
def mustLog (s : State) (core c a : Nat) : Bool :=
  (s.act core c).elim false fun act => act.open_ && !wordLogged act.log a

/-- The value of a word as the undo log takes it when the whole word is stored (R32, R74): no check is made, so nothing is
counted or reported; of an uncorrectable word it is a free value (assumptions 10, 65). -/
def preImage (s : State) (core a : Nat) : State × Word :=
  match (s.mem (placeOf core a)).err (offsetOf a) with
  | some .uncorrectable => let (f, s) := s.freeWord; (s, f)
  | _ => (s, s.localWord core a)

/-- A store of a context to the bits of a mask of the word that holds a local address (R32, R74, R75): while the prefix
lasts the log takes the word's value. A store narrower than the word reads it once, and what the read returns is both that
value and what the store is merged into; a store of the whole word reads nothing (assumption 65). -/
def storeLogged (s : State) (core c unit addr : Nat) (mask v : Word) : State :=
  let a := addr - addr % 4
  if s.mustLog core c a then
    if mask = 0xFFFFFFFF then
      let (s, old) := s.preImage core a
      (s.setLocalWord core a v).updAct core c fun x => { x with log := .word a old :: x.log }
    else
      let (s, old, _) := s.readLocal core c unit a
      (s.setLocalWord core a (merge mask v old)).updAct core c fun x => { x with log := .word a old :: x.log }
  else s.storeMasked core c unit addr mask v

/-- The mask and the value of a store of the low n bytes of a word, n = 1, 2 or 4, in the word that holds its address. -/
def storeBits (addr n : Nat) (v : Word) : Word × Word :=
  let sh := 8 * (addr % 4)
  if n = 4 then (0xFFFFFFFF, v) else (w32 (2 ^ (8 * n) - 1) <<< sh, v <<< sh)

/-- A store of a context of the low n bytes of a word, n = 1, 2 or 4, at an aligned address. -/
def storeBytes (s : State) (core c unit addr n : Nat) (v : Word) : State :=
  s.storeLogged core c unit addr (storeBits addr n v).1 (storeBits addr n v).2

/-! ## Stores that perform later, and words read ahead (R125, R127, R129) -/

/-- A word of a vector store performs: logged, written, its line's poison ORed (R71, R410). -/
def vecStoreWord (s : State) (core c a : Nat) (mask v : Word) (p : Bool) : State :=
  let s := s.storeLogged core c unitVector a mask v
  let l := s.localSide core a
  s.setLocalSide core a { l with p := l.p || p }

/-- Performing one store of the list of a context. -/
def performStore (s : State) (core c : Nat) (x : LateStore) : State :=
  match x.kind with
  | .vector => s.vecStoreWord core c x.addr x.mask x.val x.p
  | _ => s.storeLogged core c unitContext x.addr x.mask x.val

/-- Two stores of a context to one word keep their order (R127): both are vector stores, or neither is. -/
def lateOrder (x y : LateStore) : Bool := y.addr == x.addr && (y.kind == .vector) == (x.kind == .vector)

/-- Store i of a context performs, when no earlier one to its word must come first (R127). -/
def performLate (s : State) (core c i : Nat) : State :=
  let l := (s.ctx core c).lateStores
  match l[i]? with
  | none => s
  | some x =>
    if (l.take i).any fun y => lateOrder x y then s
    else (s.updCtx core c fun k => { k with lateStores := l.eraseIdx i }).performStore core c x

/-- A load that has issued performs (R129): its register takes the word as it stands; where an error or poison has come up since,
it has performed before that. -/
def performLoad (s : State) (core c : Nat) (x : LateLoad) : State :=
  let spoilt := s.poisoned core x.addr || ((s.mem (placeOf core x.addr)).err (offsetOf x.addr)).isSome
  s.setReg core c x.dst (x.part.of (if spoilt then x.val else s.localWord core x.addr) x.at_)

/-- Load i of a context performs, when no earlier one of its word must come first (R127). -/
def performLateLoad (s : State) (core c i : Nat) : State :=
  let l := (s.ctx core c).lateLoads
  match l[i]? with
  | none => s
  | some x =>
    if (l.take i).any fun y => y.addr == x.addr then s
    else (s.updCtx core c fun k => { k with lateLoads := l.eraseIdx i }).performLoad core c x

/-- Loads of a context perform, oldest first: those that a predicate names. -/
def settleLoads (s : State) (core c : Nat) (p : LateLoad → Bool) : State :=
  let l := (s.ctx core c).lateLoads
  if l.any p then
    (l.filter p).foldl (fun s x => s.performLoad core c x)
      (s.updCtx core c fun k => { k with lateLoads := l.filter fun x => !p x })
  else s

/-- Stores of a context perform, oldest first: those that a predicate names. -/
def settleIf (s : State) (core c : Nat) (p : LateStore → Bool) : State :=
  let l := (s.ctx core c).lateStores
  if l.any p then
    (l.filter p).foldl (fun s x => s.performStore core c x)
      (s.updCtx core c fun k => { k with lateStores := l.filter fun x => !p x })
  else s

/-- The scalar and stream stores of the context to the TCM perform: an access to the TCM follows (R128). -/
def awaitTcm (s : State) (core c addr : Nat) : State :=
  if addr < 0x100000 then s.settleIf core c fun x => x.kind != .vector && decide (x.addr < 0x100000) else s

/-- The loads and stores that a scalar or stream access of the context to a word must follow perform: those of the word, and
the stores to the TCM when the word lies there (R127, R128). -/
def awaitStores (s : State) (core c addr : Nat) : State :=
  let a := addr - addr % 4
  ((s.awaitTcm core c a).settleLoads core c fun x => x.addr == a).settleIf core c fun x => x.kind != .vector && x.addr == a

/-- The vector stores of the context to a word perform: a later vector access to the word follows (R127). -/
def awaitVector (s : State) (core c a : Nat) : State := s.settleIf core c fun x => x.kind == .vector && x.addr == a

/-- Every load and store of the context performs: a release follows (R130). -/
def flush (s : State) (core c : Nat) : State := (s.settleLoads core c fun _ => true).settleIf core c fun _ => true

/-- The words that the context has read ahead count no more: an acquire has performed (R130), or the word is stored. -/
def dropViews (s : State) (core c : Nat) (p : NearView → Bool) : State :=
  if (s.ctx core c).views.any p then s.updCtx core c fun k => { k with views := k.views.filter fun x => !p x } else s

/-- An acquire of the context performs (R130). -/
def acquire (s : State) (core c : Nat) : State := s.dropViews core c fun _ => true

/-- A scalar or stream store of a context. late: it performs later (R129); earlier ones to the TCM have performed when it is
to the TCM (R128). -/
def storeScalar (s : State) (core c addr n : Nat) (v : Word) (kind : StoreBy) (late : Bool) : State :=
  let a := addr - addr % 4
  let s := (s.dropViews core c fun x => x.addr == a).settleLoads core c fun x => x.addr == a
  if late then
    s.updCtx core c fun k => { k with
      lateStores := k.lateStores ++ [⟨a, (storeBits addr n v).1, (storeBits addr n v).2, kind, false⟩] }
  else (s.awaitStores core c a).storeBytes core c unitContext addr n v

/-- A scalar or stream read of the word that holds a local address (R71, R74): the word that the context has read ahead, or
the word as it stands; and whether its line is poisoned, and so no word is read, or the word unusable. -/
def readScalar (s : State) (core c addr : Nat) : State × Word × Bool :=
  let a := addr - addr % 4
  match (s.ctx core c).views.find? fun x => x.addr == a with
  | some x => (s.dropViews core c fun y => y.addr == a, x.val, x.p)
  | none =>
    let s := s.awaitStores core c a
    if s.poisoned core a then (s, 0, true) else s.readLocal core c unitContext a

/-- A scalar load may perform later (R129): of the scratchpad, into a register of the context, in a late turn; its word has not been
read ahead, and after the earlier accesses of the context to it holds no error, its line not poisoned. -/
def mayLoadLate (s : State) (core c addr : Nat) (dst : Reg) : Bool :=
  let a := addr - addr % 4
  let t := s.awaitStores core c a
  s.cur.late && decide (0x100000 ≤ addr) && !((s.ctx core c).views.any fun x => x.addr == a) && !t.poisoned core a
    && ((t.mem (placeOf core a)).err (offsetOf a)).isNone
    && (match dst with
      | .g _ => true
      | .lk => true
      | _ => false)

/-- A scalar load has issued and performs later. -/
def loadLater (s : State) (core c addr : Nat) (part : LoadPart) (dst : Reg) : State :=
  let a := addr - addr % 4
  let s := s.awaitStores core c a
  s.updCtx core c fun k => { k with lateLoads := k.lateLoads ++ [⟨a, addr % 4, part, dst, s.localWord core a⟩] }

/-- A context reads a word ahead of the load that will name it: one that no scalar or stream store of its own awaits
and that holds no error. -/
def readAhead (s : State) (core c addr : Nat) : State :=
  let a := addr - addr % 4
  let x := s.ctx core c
  if (x.views.any fun y => y.addr == a) || (x.lateLoads.any fun y => y.addr == a)
      || (x.lateStores.any fun y => y.kind != .vector && y.addr == a)
      || ((s.mem (placeOf core a)).err (offsetOf a)).isSome then s
  else s.updCtx core c fun k => { k with views := k.views ++ [⟨a, s.localWord core a, s.poisoned core a⟩] }

/-- Log the sideband of a line while the prefix lasts (R32). -/
def logSide (s : State) (core c addr : Nat) : State :=
  match s.act core c with
  | none => s
  | some act =>
    if act.open_ then s.updAct core c fun x => { x with log := .side addr (s.localSide core addr) :: x.log } else s

/-- Write one logged pre-image back (R34): a word store, with fresh check bits (R74). -/
def undo (s : State) (core : Nat) : LogEntry → State
  | .word a old => s.setLocalWord core a old
  | .side a old => s.setLocalSide core a old

/-- Unwind: the log, newest entry first (R34). -/
def unwind (s : State) (core : Nat) (log : List LogEntry) : State := log.foldl (fun s e => s.undo core e) s

/-! ## What engines read ahead, and have not written (R125, R129, R138) -/

/-- The lines that an engine of a cluster has not written: the copy engine, or the matrix engine. -/
def engLate (s : State) (cl : Nat) (copy : Bool) : List EngLine := if copy then (s.cluster cl).cpLate else (s.cluster cl).mxLate

/-- Set them. -/
def setEngLate (s : State) (cl : Nat) (copy : Bool) (l : List EngLine) : State :=
  s.updCluster cl fun x => if copy then { x with cpLate := l } else { x with mxLate := l }

/-- An engine writes lines: they perform, or in a late turn perform afterwards, behind those that it has not written. -/
def engWrite (s : State) (cl : Nat) (copy : Bool) (l : List EngLine) : State :=
  if s.cur.late then s.setEngLate cl copy (s.engLate cl copy ++ l)
  else s.updMem (.spad cl) fun m => l.foldl Mem.engLine m

/-- The first n lines that an engine has not written perform. -/
def engFlush (s : State) (cl : Nat) (copy : Bool) (n : Nat) : State :=
  if n = 0 then s
  else
    let l := s.engLate cl copy
    (s.updMem (.spad cl) fun m => (l.take n).foldl Mem.engLine m).setEngLate cl copy (l.drop n)

/-- How many of the lines that an engine has not written must be written so that those which satisfy a test are. -/
def lastPlace (p : EngLine → Bool) : List EngLine → Nat
  | [] => 0
  | x :: r =>
    let n := lastPlace p r
    if n ≠ 0 then n + 1 else if p x then 1 else 0

/-- The writes of an engine that satisfy a test perform, and those before them. -/
def engSettle (s : State) (cl : Nat) (copy : Bool) (p : EngLine → Bool) : State :=
  s.engFlush cl copy (lastPlace p (s.engLate cl copy))

/-- Of line i that an engine has not written, word j performs, or with none left the sideband change (R125): after its earlier
writes to the word, and to the line. -/
def engTurn (s : State) (cl : Nat) (copy : Bool) (i j : Nat) : State :=
  let l := s.engLate cl copy
  match l[i]? with
  | none => s
  | some x =>
    match x.words[j]? with
    | some (a, w) =>
      if ((l.take i).any fun y => y.words.any fun v => v.1 == a) || (x.words.take j).any fun v => v.1 == a then s
      else
        let y := { x with words := x.words.eraseIdx j }
        (s.updMem (.spad cl) fun m => m.setWord a w).setEngLate cl copy
          (if y.words.isEmpty && y.side.isNone then l.eraseIdx i else l.set i y)
    | none =>
      if !x.words.isEmpty || (l.take i).any fun y => y.line == x.line then s
      else (s.updMem (.spad cl) fun m => m.engLine x).setEngLate cl copy (l.eraseIdx i)

/-! ## The generator (R156, R157) -/

/-- Convert a value, taking a draw of the cluster when the conversion needs one. -/
def convertDraw (s : State) (cl : Nat) (src dst : Fmt) (rnd : Rnd) (sat : Bool) (bits : Nat) : Rounded × State :=
  let x := genDraw (s.cluster cl).gen
  let r := convert src dst rnd sat bits (x.toNat / 2 ^ 32)
  if r.drew then (r, s.updCluster cl fun c => { c with gen := x }) else (r, s)

end State

end Sys2Proof.Machine
end

