-- ==== Sys2Proof/Machine/Vec.lean ====
section
/-! DEFINITION. Sys2Proof/Machine/Vec.lean: the vector unit's data path (R192 to R201, R394 to R410): lanes, what a
pass of an instruction computes, and what the writing of its result does, and how the undo log is counted. -/

namespace Sys2Proof.Machine

/-- Lane i of a vector register. -/
def Core.lane (c : Core) (v : VNo) (i : Nat) : Word := Tab.look 0 c.lanes (64 * v.val + i)
/-- The poison bit of a lane. -/
def Core.lanePoison (c : Core) (v : VNo) (i : Nat) : Bool := (c.vpoison[v]).getLsbD i
/-- Write a lane and its poison bit. -/
def Core.setLane (c : Core) (v : VNo) (i : Nat) (w : Word) (p : Bool) : Core :=
  let m := c.vpoison[v]
  let bit : BitVec 64 := 1 <<< i
  { c with lanes := Tab.put 0 c.lanes (64 * v.val + i) w,
           vpoison := c.vpoison.set v.val (if p then m ||| bit else m &&& ~~~bit) v.isLt }

/-! ## What an instruction reads and writes -/

/-- The vector register that an instruction writes. -/
def vecDst : Instr → Option VNo
  | .vadd d _ _ _ | .vsub d _ _ _ | .vmul d _ _ _ | .vfma d _ _ _ | .vmin d _ _ _ | .vmax d _ _ _ => some d
  | .vand d _ _ | .vor d _ _ | .vxor d _ _ | .vshl d _ _ | .vshr d _ _ | .vsel d _ _ | .vperm d _ _ => some d
  | .vcmp d _ _ _ _ => some d
  | .vcvt d _ _ _ _ _ => some d
  | .vexp2 d _ _ _ | .vlog2 d _ _ _ | .vrcp d _ _ _ => some d
  | .vscan d _ _ => some d
  | .vbcst d _ => some d
  | .vld d _ _ _ => some d
  | .vgth d _ _ _ _ => some d
  | _ => none

/-- The vector registers that an instruction reads. -/
def vecSrc : Instr → List VNo
  | .vadd _ a b _ | .vsub _ a b _ | .vmul _ a b _ | .vmin _ a b _ | .vmax _ a b _ => [a, b]
  | .vfma d a b _ => [a, b, d]
  | .vand _ a b | .vor _ a b | .vxor _ a b | .vshl _ a b | .vshr _ a b | .vperm _ a b => [a, b]
  | .vsel d a b => [a, b, d]
  | .vcmp _ a b _ _ => [a, b]
  | .vcvt _ a _ _ _ _ => [a]
  | .vexp2 _ a _ _ | .vlog2 _ a _ _ | .vrcp _ a _ _ => [a]
  | .vrsum _ a _ _ | .vrmax _ a _ _ => [a]
  | .vscan _ a _ => [a]
  | .vmvg _ a _ => [a]
  | .vst d _ _ => [d]
  | .vgth _ _ _ e _ => [e]
  | .vsct d _ e _ => [d, e]
  | _ => []

/-- The g registers and lk that an instruction writes when its result is ready (R194, R404). -/
def vecRegs : Instr → List Reg
  | .vrsum d _ _ x | .vrmax d _ _ x =>
    match d with
    | .g n => if x then [.g n, .g (n + 1)] else [.g n]
    | .lk => [.lk]
    | _ => []
  | .vmvg d _ _ =>
    match d with
    | .g n => [.g n]
    | .lk => [.lk]
    | _ => []
  | _ => []

/-- A vector store. -/
def isVecStore : Instr → Bool
  | .vst _ _ _ => true
  | .vsct _ _ _ _ => true
  | _ => false

/-- Passes of an entry (R195, R196, R405): none for VL = 0 and for VSETL. -/
def VecEntry.passes (e : VecEntry) : Nat :=
  match e.ins with
  | .vsetl _ => 0
  | .vscan _ _ _ => if e.vl = 0 then 0 else 1
  | _ => (e.vl + 15) / 16

/-- Every pass has been granted. -/
def VecEntry.allGranted (e : VecEntry) : Bool := decide (e.passes ≤ e.granted)

/-- A vector memory instruction (R407). -/
def isVecMem : Instr → Bool
  | .vld _ _ _ _ => true
  | .vst _ _ _ => true
  | .vgth _ _ _ _ _ => true
  | .vsct _ _ _ _ => true
  | _ => false

/-- An entry is a memory instruction whose accesses the unit has not made: passes remain, or words of a load (R130). -/
def memPending (e : VecEntry) : Bool := isVecMem e.ins && (!e.allGranted || !e.owed.isEmpty)

/-! ## Lane arithmetic (R398, R400, R402, R403) -/

/-- The lane operation of the lane-wise instructions other than VCVT: x of va, y of vb, z of vd. -/
def vecOp (i : Instr) (x y z : Word) : Word × Flags :=
  match i with
  | .vadd _ _ _ m => if m.int then (x + y, 0) else fAdd m.rnd x y
  | .vsub _ _ _ m => if m.int then (x - y, 0) else fSub m.rnd x y
  | .vmul _ _ _ m => if m.int then (x * y, 0) else fMul m.rnd x y
  | .vfma _ _ _ m => if m.int then (x * y + z, 0) else fFma m.rnd x y z
  | .vmin _ _ _ m => if m.int then (sMinMax false x y, 0) else fMinMax false x y
  | .vmax _ _ _ m => if m.int then (sMinMax true x y, 0) else fMinMax true x y
  | .vand _ _ _ => (x &&& y, 0)
  | .vor _ _ _ => (x ||| y, 0)
  | .vxor _ _ _ => (x ^^^ y, 0)
  | .vshl _ _ _ => (x <<< (y.toNat % 32), 0)
  | .vshr _ _ _ => (x >>> (y.toNat % 32), 0)
  | .vcmp _ _ _ c int =>
    if int then (match c with
      | .eq => boolWord (x == y)
      | .lt => boolWord (decide (x.toInt < y.toInt))
      | .le => boolWord (decide (x.toInt ≤ y.toInt)), 0)
    else fCompare c x y
  | .vsel _ _ _ => (if z ≠ 0 then x else y, 0)
  | .vexp2 _ _ r _ => fExp2 r x
  | .vlog2 _ _ r _ => fLog2 r x
  | .vrcp _ _ r _ => fRcp r x
  | _ => (0, 0)

/-- The instruction marks NaN results as poison: PN with a floating-point type (R197, R398). -/
def vecPn : Instr → Bool
  | .vadd _ _ _ m | .vsub _ _ _ m | .vmul _ _ _ m | .vfma _ _ _ m | .vmin _ _ _ m | .vmax _ _ _ m
  | .vscan _ _ m => m.pn && !m.int
  | .vexp2 _ _ _ pn | .vlog2 _ _ _ pn | .vrcp _ _ _ pn => pn
  | _ => false

/-! ## Elements in memory (R144, R407 to R409) -/

/-- The word that holds element k of a packed array at ea, and the bit of that word at which it starts. -/
def elemWord (t : Fmt) (ea k : Nat) : Nat × Nat := (ea + 4 * (k * t.width / 32), k * t.width % 32)

/-- The byte address of element k (R409). -/
def elemByte (t : Fmt) (ea k : Nat) : Nat := ea + k * t.width / 8

/-- An element out of its word. -/
def elemOf (t : Fmt) (w : Word) (bit : Nat) : Word := placeBits t ((w >>> bit).toNat % 2 ^ t.width)

/-- The mask of an element in its word. -/
def elemMask (t : Fmt) (bit : Nat) : Word := w32 (2 ^ t.width - 1) <<< bit

/-- Byte a lies in the region, TCM or scratchpad, that holds ea (R408, R409). -/
def inRegion (ea a : Nat) : Bool :=
  if ea < 0x100000 then decide (a < 0x6000) else decide (0x100000 ≤ a ∧ a < 0x180000)

/-- What an entry has of a word of memory: from its held lines, or from the words that it has read. -/
def VecEntry.word (e : VecEntry) (a : Nat) : Word × Bool :=
  match e.held with
  | some ls =>
    match ls.find? fun l => l.line == a / 128 with
    | some l => (l.words.getD (a % 128 / 4) 0, l.p)
    | none => (0, false)
  | none =>
    match e.got.find? fun w => w.1 == a with
    | some (_, w, p) => (w, p)
    | none => (0, false)

/-- The vector unit reads a word of memory for an entry that has not read it (R125): one access for each word, after the
vector stores of the context to the word (R127). -/
def State.vecRead (s : State) (core : Nat) (e : VecEntry) (a : Nat) : State × VecEntry :=
  if e.held.isSome || e.got.any fun w => w.1 == a then (s, e)
  else
    let (s, w, _) := (s.awaitVector core e.ctx a).readLocal core e.ctx unitVector a
    (s, { e with got := e.got ++ [(a, w, s.poisoned core a)] })

/-- One more lane of a vector store, as (element, value, poison), joins the words that the pass writes: address, mask, value and
poison. Of lanes that name one element the last stands (R409). -/
def putLane (t : Fmt) (ea : Nat) (ws : List (Nat × Word × Word × Bool)) (x : Nat × Word × Bool) : List (Nat × Word × Word × Bool) :=
  let (a, bit) := elemWord t ea x.1
  let m := elemMask t bit
  if ws.any fun w => w.1 == a then ws.map fun w =>
    if w.1 = a then (a, w.2.1 ||| m, State.merge m (x.2.1 <<< bit) w.2.2.1, w.2.2.2 || x.2.2) else w
  else ws ++ [(a, m, (x.2.1 <<< bit) &&& m, x.2.2)]

/-- The words that the lanes of a pass write, in ascending lane: one access for each word (R125). -/
def laneWords (t : Fmt) (ea : Nat) (l : List (Nat × Word × Bool)) : List (Nat × Word × Word × Bool) := l.foldl (putLane t ea) []

namespace State

/-- A store of the vector unit to bits of a word: it performs, or in a late turn is still to perform (R125, R129). -/
def vecStore (s : State) (core c : Nat) (late : Bool) (a : Nat) (mask v : Word) (p : Bool) : State :=
  if late then s.updCtx core c fun k => { k with lateStores := k.lateStores ++ [⟨a, mask, v, .vector, p⟩] }
  else (s.awaitVector core c a).vecStoreWord core c a mask v p

/-! ## Passes (R195, R199) -/

/-- A lane of a VSCT writes its element: its index is not poisoned and names a byte of the region (R409). -/
def scatters (c : Core) (e : VecEntry) (ve : VNo) (t : Fmt) (i : Nat) : Bool :=
  !c.lanePoison ve i && inRegion e.x.toNat (elemByte t e.x.toNat (c.lane ve i).toNat)

/-- What event 43 tells of a lane that writes nothing (R409): the byte address of its element; the lane and the reason. -/
def lostLane (c : Core) (e : VecEntry) (ve : VNo) (t : Fmt) (i : Nat) : Word × Word :=
  (w32 (elemByte t e.x.toNat (c.lane ve i).toNat), w32 (i + 256 * (if c.lanePoison ve i then 1 else 0)))

/-- Lane i of a lane-wise instruction or of a load. -/
def vecLane (s : State) (core : Nat) (e : VecEntry) (i : Nat) : State × VecEntry :=
  let c := s.core core
  let src := vecSrc e.ins
  let x := (src[0]?).elim 0 fun v => c.lane v i
  let y := (src[1]?).elim 0 fun v => c.lane v i
  let z := (src[2]?).elim 0 fun v => c.lane v i
  let pz := src.any fun v => c.lanePoison v i
  match e.ins with
  | .vcvt _ _ rnd sat dst fsrc =>
    let (r, s) := s.convertDraw (clusterOf core) fsrc dst rnd sat x.toNat
    (s, { e with out := e.out ++ [(i, placeBits dst r.bits, pz)], flags := e.flags ||| r.flags })
  | .vbcst _ _ => (s, { e with out := e.out ++ [(i, e.x, false)] })
  | .vperm _ a b =>
    let j := (c.lane b i).toNat % 64
    (s, { e with out := e.out ++ [(i, c.lane a j, c.lanePoison a j || c.lanePoison b i)] })
  | .vrsum _ _ _ _ => (s, { e with out := e.out ++ [(i, x, pz)] })
  | .vrmax _ _ _ _ => (s, { e with out := e.out ++ [(i, x, pz)] })
  | .vmvg _ _ _ => (s, e)
  | .vld _ _ _ t =>
    let (a, bit) := elemWord t e.x.toNat i
    let (s, e) := s.vecRead core e a
    (s, { e with out := e.out ++ [(i, elemOf t (e.word a).1 bit, (e.word a).2)] })
  | .vgth _ _ _ ve t =>
    let k := (c.lane ve i).toNat
    if c.lanePoison ve i || !inRegion e.x.toNat (elemByte t e.x.toNat k) then
      (s, { e with out := e.out ++ [(i, 0, true)] })
    else
      let (a, bit) := elemWord t e.x.toNat k
      let (s, e) := s.vecRead core e a
      (s, { e with out := e.out ++ [(i, elemOf t (e.word a).1 bit, (e.word a).2)] })
  | ins =>
    let (r, f) := vecOp ins x y z
    (s, { e with out := e.out ++ [(i, r, pz || (vecPn ins && isNan32 r))], flags := e.flags ||| f })

/-- The running sum of VSCAN over the lanes that remain (R171, R199). -/
def scanLanes (int : Bool) (rnd : Rnd) (pn : Bool) (acc : Word) (ap : Bool) (fl : Flags) :
    List (Nat × Word × Bool) → List (Nat × Word × Bool) × Flags
  | [] => ([], fl)
  | (i, x, p) :: r =>
    let (y, f) := if i = 0 then (if int || !isNan32 x then x else nan32, 0) else if int then (acc + x, 0) else fAdd rnd acc x
    let q := ap || p
    let (l, f') := scanLanes int rnd pn y q (fl ||| f) r
    ((i, y, q || (pn && !int && isNan32 y)) :: l, f')

/-- The lanes that pass j of an entry covers. -/
def passLanes (e : VecEntry) (j : Nat) : List Nat :=
  (List.range 16).filterMap fun i => if 16 * j + i < e.vl then some (16 * j + i) else none

/-- The words of memory that pass j of an entry accesses: a load reads them, a store writes them (R408, R409). -/
def passWords (s : State) (core : Nat) (e : VecEntry) (j : Nat) : List Nat :=
  let c := s.core core
  let indexed (v : VNo) (t : Fmt) : List Nat := (passLanes e j).filterMap fun i =>
    let k := (c.lane v i).toNat
    if c.lanePoison v i || !inRegion e.x.toNat (elemByte t e.x.toNat k) then none else some (elemWord t e.x.toNat k).1
  match e.ins with
  | .vld _ _ _ t => (passLanes e j).map fun i => (elemWord t e.x.toNat i).1
  | .vst _ _ t => (passLanes e j).map fun i => (elemWord t e.x.toNat i).1
  | .vgth _ _ _ v t => indexed v t
  | .vsct _ _ v t => indexed v t
  | _ => []

/-- The words that an entry has still to read for passes that have been granted. -/
def owedWords (s : State) (core : Nat) (e : VecEntry) : List Nat :=
  (e.owed.flatMap fun j => s.passWords core e j).filter fun a => !e.got.any fun w => w.1 == a

/-- An entry reads those of some words that it has still to read. -/
def readOwed (s : State) (core : Nat) (ws : List Nat) (e : VecEntry) : State × VecEntry :=
  ((s.owedWords core e).filter ws.contains).foldl (fun (x : State × VecEntry) a => x.1.vecRead core x.2 a) (s, e)

/-- The entries of a list that belong to a context read those of some words that they have still to read. -/
def readOwedIn (s : State) (core c : Nat) (ws : List Nat) : List VecEntry → State × List VecEntry
  | [] => (s, [])
  | e :: r =>
    let (s, e) := if e.ctx = c then s.readOwed core ws e else (s, e)
    let (s, r) := s.readOwedIn core c ws r
    (s, e :: r)

/-- The loads of a context that come earlier in the vector queue read the words that a store pass is to write (R127). -/
def readEarlier (s : State) (core : Nat) (e : VecEntry) : State :=
  if isVecStore e.ins then
    let (s, q) := s.readOwedIn core e.ctx (s.passWords core e e.granted) (s.core core).vq
    s.updCore core fun k => { k with vq := q }
  else s

/-- A vector memory instruction of the context has not performed (R130, R139). -/
def vecMemPending (s : State) (core c : Nat) : Bool := (s.core core).vq.any fun e => e.ctx == c && memPending e

/-- A load reads memory in its passes; one that synchronises has read it at issue (R410). -/
def readsMemory (e : VecEntry) : Bool :=
  match e.ins with
  | .vld _ _ _ _ | .vgth _ _ _ _ _ => e.held.isNone
  | _ => false

/-- The words of a store pass are written. -/
def vecWords (s : State) (core : Nat) (late : Bool) (e : VecEntry) (ws : List (Nat × Word × Word × Bool)) : State :=
  ws.foldl (fun (s : State) (w : Nat × Word × Word × Bool) => s.vecStore core e.ctx late w.1 w.2.1 w.2.2.1 w.2.2.2) s

/-- A pass of an entry runs: it reads its operands, computes its lanes, and makes its memory accesses. In a late turn these
perform afterwards, a word at a time (R125, R129). -/
def vecPass (s : State) (core : Nat) (late : Bool) (e : VecEntry) : State × VecEntry :=
  if late && readsMemory e then (s, { e with granted := e.granted + 1, owed := e.owed ++ [e.granted] })
  else
    let s := s.readEarlier core e
    let (s, e') :=
      match e.ins with
      | .vscan _ a m =>
        let c := s.core core
        let (out, fl) := scanLanes m.int m.rnd m.pn 0 false 0
          ((List.range e.vl).map fun i => (i, c.lane a i, c.lanePoison a i))
        (s, { e with out := out, flags := e.flags ||| fl })
      | .vst d _ t =>
        let c := s.core core
        (s.vecWords core late e (laneWords t e.x.toNat ((passLanes e e.granted).map fun i => (i, c.lane d i, c.lanePoison d i))), e)
      | .vsct d _ ve t =>
        let c := s.core core
        let (hit, lost) := (passLanes e e.granted).partition (scatters c e ve t)
        (s.vecWords core late e (laneWords t e.x.toNat (hit.map fun i => ((c.lane ve i).toNat, c.lane d i, c.lanePoison d i))),
          { e with lost := e.lost.or (lost.head?.map (lostLane c e ve t)) })
      | _ => (passLanes e e.granted).foldl (fun (se : State × VecEntry) i => se.1.vecLane core se.2 i) (s, e)
    (s, { e' with granted := e.granted + 1 })

/-- The passes of a load that have been granted read what they have not read, and their lanes are taken. -/
def vecOwed (s : State) (core : Nat) (e : VecEntry) : State × VecEntry :=
  (e.owed.flatMap (passLanes e)).foldl (fun (x : State × VecEntry) i => x.1.vecLane core x.2 i)
    (s, { e with owed := [] })

/-- All that remains of an entry: passes, and words to be read (R193). -/
def vecFinish (s : State) (core : Nat) (e : VecEntry) : Nat → State × VecEntry
  | 0 => s.vecOwed core e
  | n + 1 =>
    if e.allGranted then s.vecOwed core e
    else
      let (s, e) := s.vecPass core false e
      s.vecFinish core e n

end State

/-! ## Room in the undo log (R33, R410) -/

/-- The words that a VST writes from ea with a vector length. -/
def vstWords (t : Fmt) (ea vl : Nat) : List Nat := ((List.range vl).map fun i => (elemWord t ea i).1).eraseDups

/-- The words that the queued VSTs of a context write, and those of its stores that have not performed. -/
def State.queuedWords (s : State) (core c : Nat) : List Nat :=
  ((s.core core).vq.flatMap fun e =>
    match e.ins with
    | .vst _ _ t => if e.ctx = c then vstWords t e.x.toNat e.vl else []
    | _ => []) ++ (s.ctx core c).lateStores.map LateStore.addr

/-- The words that the queued VSCTs of a context were counted with and have not reached. -/
def State.queuedScatter (s : State) (core c : Nat) : Nat :=
  ((s.core core).vq.map fun e =>
    match e.ins with
    | .vsct _ _ _ _ => if e.ctx = c then e.vl - 16 * e.granted else 0
    | _ => 0).sum

/-- The prefix lasts and n further log entries need a 65th (R33); the words that queued vector stores will log count from
their issue (R410). -/
def State.logFull (s : State) (core c n : Nat) : Bool :=
  match s.act core c with
  | none => false
  | some act => act.open_ &&
      decide (64 < act.log.length + (newWords act.log (s.queuedWords core c)).length + s.queuedScatter core c + n)

/-- The words of a list need a 65th log entry (R33). -/
def State.wordsFull (s : State) (core c : Nat) (as : List Nat) : Bool :=
  match s.act core c with
  | none => false
  | some act =>
    s.logFull core c ((newWords act.log as).filter fun a => !(s.queuedWords core c).contains a).length

/-! ## Reductions (R170, R404) -/

/-- One level of the tree: neighbours combine, an absent node gives way. -/
def treeLevel (f : Word → Word → Word × Flags) : List (Option Word) → List (Option Word) × Flags
  | [] => ([], 0)
  | [x] => ([x], 0)
  | x :: y :: r =>
    let (z, fl) : Option Word × Flags :=
      match x, y with
      | none, h => (h, 0)
      | l, none => (l, 0)
      | some l, some h => (some (f l h).1, (f l h).2)
    let (l, fl') := treeLevel f r
    (z :: l, fl ||| fl')

/-- The tree of R170: n levels. -/
def tree (f : Word → Word → Word × Flags) : Nat → List (Option Word) → Option Word × Flags
  | 0, l => ((l.head?).join, 0)
  | n + 1, l =>
    let (l, fl) := treeLevel f l
    let (r, fl') := tree f n l
    (r, fl ||| fl')

/-- A value that is passed on as a result (R148): the canonical NaN for a NaN. -/
def canon32 (v : Word) : Word := if isNan32 v then nan32 else v

/-- The value of a reduction over the lanes read: lane, value, poison; x: poisoned lanes are absent. A floating-point result
that is a NaN is the canonical one, also where one lane alone is present (R148, R170). -/
def reduce (f : Word → Word → Word × Flags) (empty : Word) (float x : Bool) (out : List (Nat × Word × Bool)) : Word × Flags :=
  let node (i : Nat) : Option Word :=
    match out.find? fun o => o.1 == i with
    | some (_, v, p) => if x && p then none else some v
    | none => none
  let (r, fl) := tree f 6 ((List.range 64).map node)
  let v := r.getD empty
  (if float then canon32 v else v, fl)

/-- The value and the flags of VRSUM or VRMAX. -/
def vecReduce (i : Instr) (out : List (Nat × Word × Bool)) : Word × Flags :=
  match i with
  | .vrsum _ _ m x => reduce (fun l h => if m.int then (l + h, 0) else fAdd m.rnd l h) 0 (!m.int) x out
  | .vrmax _ _ m x =>
    if m.int then reduce (fun l h => (sMinMax true l h, 0)) 0x8000_0000 false x out
    else reduce (fun l h => fMinMax true l h) 0xFF80_0000 true x out
  | _ => (0, 0)

/-- The last parcel of an instruction: its instruction parcel (R232). -/
def insParcel (i : Instr) : Word := ((encode i).getLast?.getD 0).setWidth 32

namespace State

/-- The lowest poisoned lane that a reduction with X = 0 reads (R200); of one that has failed its check, in its register. -/
def poisonedLane (s : State) (core : Nat) (e : VecEntry) (a : VNo) : Option Nat :=
  if e.failed then (List.range e.vl).find? ((s.core core).lanePoison a) else (e.out.find? fun o => o.2.2).map fun o => o.1

/-- The cause that an entry raises instead of writing its result (R234): UE of R200, then CHK of R201. -/
def vecTrap (s : State) (core : Nat) (e : VecEntry) : Option TrapInfo :=
  let ue : Option TrapInfo :=
    match e.ins with
    | .vrsum _ a _ false | .vrmax _ a _ false => (s.poisonedLane core e a).map fun i => ⟨8, 0, w32 i⟩
    | .vmvg _ a _ => if (s.core core).lanePoison a (e.x.toNat % 64) then some ⟨8, 0, e.x⟩ else none
    | _ => none
  ue.or (if e.failed then some ⟨7, insParcel e.ins, 1⟩ else none)

/-- The result of an entry is written: lanes with poison, g registers, flags, the event of a scatter (R194, R409). -/
def vecWrite (s : State) (core : Nat) (e : VecEntry) : State :=
  let s :=
    match vecDst e.ins with
    | some v => s.updCore core fun c => e.out.foldl (fun (c : Core) (o : Nat × Word × Bool) => c.setLane v o.1 o.2.1 o.2.2) c
    | none => s
  let (r, fl) := vecReduce e.ins e.out
  let count := w32 (e.out.filter fun o => o.2.2).length
  let s := s.updCtx core e.ctx fun x =>
    let x := x.addFlags (e.flags ||| fl)
    match e.ins with
    | .vrsum d _ _ k | .vrmax d _ _ k =>
      let x := x.setReg d r
      match d with
      | .g n => if k then x.setReg (.g (n + 1)) count else x
      | _ => x
    | .vmvg d a _ => x.setReg d ((s.core core).lane a (e.x.toNat % 64))
    | _ => x
  match e.lost with
  | some (a, i) => s.coreEvent core (s.onBehalf core e.ctx unitVector) 43 a i
  | none => s

/-- The vector slot is released: v0 to v7 are zeroed (R27, R193). -/
def releaseSlot (s : State) (core : Nat) : State :=
  s.updCore core fun c => { c with
    vslot := none, lanes := [], vpoison := Vector.replicate 8 0, vl := 64 }

/-- An abort meets the vector unit (R193): entries that have had a lane group complete, the others are discarded, and
the slot is released. A context that waits in VACQ leaves the slot as it was (R395). -/
def abortVector (s : State) (core c : Nat) : State :=
  let s := s.updCore core fun k => { k with vwait := k.vwait.filter (· ≠ c) }
  if (s.core core).vslot = some c then
    let es := (s.core core).vq.filter fun e => 0 < e.granted
    let s := es.foldl (fun (s : State) (e : VecEntry) =>
      let (s, e) := s.vecFinish core e 4
      if (s.vecTrap core e).isSome then s else s.vecWrite core e) (s.updCore core fun k => { k with vq := [] })
    s.releaseSlot core
  else s

end State

end Sys2Proof.Machine
end

