-- ==== Sys2Proof/Machine/Wire.lean ====
section
/-! DEFINITION. Sys2Proof/Machine/Wire.lean: the chips of a domain (R94, R114, R122), far stores that fault: their
records and the hold of their step (R119, R120, R237, R238), how the outcome of a far store returns (R101, R364),
packets for a chip that is unreachable (R258), and checked reads of global memory (R76). -/

namespace Sys2Proof.Machine

/-- The lower of two statuses of a copy command, 0 for none (R215). -/
def lowerStatus (a b : Nat) : Nat := if a = 0 then b else if b = 0 then a else min a b

/-- The status of a copy command that a fault cause gives (R215, R426). -/
def copyStatus (cause : Nat) : Nat := if cause = 0 then 0 else if cause = 9 then 1 else if cause = 10 then 2 else 5

/-- A request of a copy command has been answered: its line goes on, a fault counts, status is the code of R215. -/
def CpCmd.answered (c : CpCmd) (line status words : Nat) (p : Bool) : CpCmd :=
  let bad := if status = 0 then 0 else 1
  { c with
    open_ := c.open_ - 1
    faulted := c.faulted + bad
    status := lowerStatus c.status status
    prog := c.prog.map fun x =>
      if x.line = line then { x with left := x.left - 1, wrote := x.wrote + words, faults := x.faults + bad, p := x.p || p }
      else x }

/-- A copy command has a request that it has not made (R206). -/
def CpCmd.asks (c : CpCmd) : Bool := decide (c.next < 32 * ((c.w.extractLsb' 8 12).toNat + 1))

namespace State

/-! ## Domains (R94, R114, R122) -/

/-- The chips of a PID's domain: the valid entries of its chip table, by rank (R122). -/
def domainChips (s : State) (pid : BitVec 16) : List (BitVec 22) :=
  if s.mapValid pid then (List.range (s.nrank pid)).filterMap fun k => s.chipEntry pid k else []

/-- The root chip of a domain's step tree: that of its lowest valid rank (assumption 18). -/
def rootChip (s : State) (pid : BitVec 16) : BitVec 22 := (s.domainChips pid).headD s.chip

/-- This chip is the root of the PID's step tree. -/
def isRoot (s : State) (pid : BitVec 16) : Bool := s.rootChip pid == s.chip

/-- The step that a tag names, the open one or one after it; none for a step that has committed (R101, R103). A chip that has had its
commit notice earlier sends stores of a step that is C + 3 here (R116, R258). -/
def stepOfTag (s : State) (pid tag : BitVec 16) : Option Nat :=
  let c := (s.domain pid).c
  let d := signed 16 (tag - BitVec.ofInt 16 (c + 1)).toNat
  if 0 ≤ d then some (c + 1 + d).toNat else none

/-- The step of a tag is held or has an undecided fault, and neither decision has been taken (R119, R121, R123, R124). -/
def stepHeld (s : State) (pid : BitVec 16) (tag : BitVec 16) : Bool :=
  let d := s.domain pid
  (s.stepOfTag pid tag).elim false fun t =>
    let now : Bool := (t : Int) == d.c + 1
    let decided : Bool := if now then d.phase == .apply || d.abortNow
      else if (t : Int) = d.c + 2 then d.abortNext else d.abortLater.contains t
    !decided && ((now && d.phase == .held) || d.faults.any fun f => f.step == t)

/-- The selector of R81: VA[53], and what lies above, counts as 0. -/
def selectorOf (va : BitVec 64) : Nat :=
  ((List.range 12).foldl (fun (x : BitVec 2) i => x ^^^ (va &&& 0x1FFFFFFFFFFFFF).extractLsb' (30 + 2 * i) 2) 0).toNat

/-- The translating station of a die for an address (R81). -/
def stationOf (die : Nat) (va : BitVec 64) : Nat := 4 * die + selectorOf va

/-! ## Answers of the network interface -/

/-- The answer of a core's network interface to its own core (R435): from the core itself, under its number. -/
def answerCore (s : State) (by_ : Issuer) (hw : Option Word) (body : List Word) : State :=
  match hw with
  | none => s
  | some h =>
    let m : Msg := { (Msg.blank.withHandler h) with
      ans := true, score := by_.lcore, schip := by_.rank, pid := by_.pid, stag := by_.tag,
      nw := BitVec.ofNat 5 body.length, body := body }
    s.answerFrom by_.core unitNetwork m by_.lcore by_.rank

/-! ## Parked requests (R117, R239) -/

/-- Bytes of staging entries (R104): the written bits of one KiB of page share one entry. -/
def stageBytes (l : List Stage) : Nat :=
  64 * ((l.filter fun e => e.val == .written).map fun e => (e.pid, e.step, e.addr / 1024)).eraseDups.length
    + (l.map fun e =>
        if e.conflict then 16 else match e.val with | .plain _ => 16 | .heldUniq _ => 16 | .written => 0 | _ => 64).sum

/-- Bytes of the stage sump of a die in use: staging entries in the sump, and parked requests at 12 bytes a word
(assumption 23). -/
def stageUsed (s : State) (d : Nat) : Nat :=
  ((List.range 4).map fun i => stageBytes ((s.station (4 * d + i)).staging.filter fun e => e.sump)).sum
    + ((s.die d).parked.map fun e => match e.2 with | .trigger _ => 0 | .request _ _ ws _ => 12 * ws.length).sum

/-- The stage sump of a die takes n more bytes. -/
def stageRoom (s : State) (d n : Nat) : Bool := decide (s.stageUsed d + n ≤ (s.die d).stageQuota)

/-! ## Store records (R120, R238) -/

/-- The body of a store record. code: the merge code found, 15 for none; ranks: those of the chips that did not accept a
GSTMC, which this record lists; total: their number in all. -/
def storeBody (st : FarStore) (code : Nat) (ranks : List Nat) (total : Nat) (handle : Word) : List Word :=
  let d (i : Nat) : Word := ((st.words[i]?).map (·.2)).getD 0
  let bit (b : Bool) (n : Nat) : Nat := if b then 2 ^ n else 0
  let pair := st.kind == .gstd
  [ st.va.extractLsb' 0 32, st.va.extractLsb' 32 32, d 0, (if st.words.length = 1 then 0 else d 1),
    w32 (bit pair 0 + bit st.p 1 + bit (st.kind == .cpfst) 2 + bit (st.kind == .gstmc) 3 + 2 ^ 4 * code
      + 2 ^ 16 * st.key.toNat),
    st.seq, w32 (st.by_.lcore.toNat + 2 ^ 16 * st.by_.ctx), st.by_.rank.setWidth 32, w32 total ]
  ++ ((ranks.map w32) ++ List.replicate 8 0).take 8 ++ [handle]

/-- The commit of a step is held by a fault of a far store (R119); the root of the domain learns of it. -/
def holdStep (s : State) (pid : BitVec 16) (f : HoldFault) : State :=
  let s := s.updDomain pid fun d => { d with faults := d.faults ++ [f] }
  if s.isRoot pid then s else s.gateway (s.rootChip pid) 3 (.hold pid f true)

/-- The fault by which a far store holds its step (R119), while the step is open. -/
def faultOf (s : State) (st : FarStore) : Option HoldFault :=
  (s.stepOfTag st.by_.pid st.by_.tag).map fun step => ⟨step, st.by_.rank, st.by_.lcore, st.seq⟩

/-- The fault of a far store is recorded by a unit, and its step is held (R119, R120). A CPFST request is parked in the
stage sump of a die. -/
def storeFault (s : State) (u : Unit) (unit uidx die : Nat) (st : FarStore) (cause code : Nat) (info0 info1 : Word)
    (ranks : List Nat) (total : Nat) : State :=
  let fault := s.faultOf st
  let (h, s) := if st.kind = .cpfst then s.park die (.request st.by_.pid ((fault.elim 0 HoldFault.step)) st.words st.pairs) else (0, s)
  let s := s.unitReport u false { Report.base cause 2 st.by_.pid st.by_.tag with
    unit := unit, uidx := uidx, info0 := info0, info1 := info1, parked := st.kind == .cpfst,
    body := storeBody st code ranks total h }
  fault.elim s fun f => s.holdStep st.by_.pid f

/-- The ranks of chips in a PID's chip table, in ascending order. -/
def ranksOf (s : State) (pid : BitVec 16) (chips : List (BitVec 22)) : List Nat :=
  chips.filterMap (fun c => (List.range (s.nrank pid)).find? fun k => s.chipEntry pid k == some c) |>.mergeSort

/-- The station of this chip at which a far store is, or by which it has left. -/
def stationAt (st : FarStore) : Nat :=
  match st.place with
  | .translate i => i
  | .home p => p.home
  | .away _ i => i

/-- The causes of R85 by which chips of a group have not accepted a store, each with the merge code found there. -/
def refusals (failed : List (BitVec 22 × Nat × Word)) : List (Nat × Word) :=
  let of_ (cause : Nat) : List (Nat × Word) := ((failed.map fun x => x.2).filter fun x => x.1 == cause).eraseDups
  of_ 9 ++ of_ 10

/-- The records of a GSTMC that chips of its group have not accepted (R119, R238): for each cause of R85, and merge code found, the
ranks in ascending order, eight to a record, from the station of the issuing chip that translates the store (assumption 70);
for each chip to which its packet was abandoned one of the gateway (R258). Each gives the number of such chips in all. -/
def groupFaults (s : State) (st : FarStore) (failed : List (BitVec 22 × Nat × Word)) : State :=
  let i := stationAt st
  let s := (refusals failed).foldl (fun (s : State) why =>
    let ranks := s.ranksOf st.by_.pid ((failed.filter fun x => x.2 == why).map (·.1))
    (List.range ((ranks.length + 7) / 8)).foldl (fun (s : State) k =>
      s.storeFault (.station i) unitStation i (i / 4) st why.1 why.2.toNat (st.va.extractLsb' 0 32) (st.va.extractLsb' 32 32)
        ((ranks.drop (8 * k)).take 8) failed.length) s) s
  (failed.filter fun x => x.2.1 == 17).foldl (fun (s : State) (chip, _, num) =>
    (s.keepRoute ⟨0, none, i, chip, 2, num⟩).storeFault .gateway unitGateway 0 0 st 17 15 num (connInfo chip 2)
      (s.ranksOf st.by_.pid [chip]) failed.length) s

/-- Room for the record of a far store: that of its parked request (R239). -/
def faultRoom (s : State) (die : Nat) (st : FarStore) : Bool :=
  st.kind != .cpfst || s.stageRoom die (12 * st.words.length)

/-! ## The outcome of a far store -/

/-- A fault of a store no longer holds its step: its replay has been accepted or has faulted anew (R121), or it had been
delivered (R259). It is one that this chip has recorded; the root of the domain learns of it. -/
def clearHold (s : State) (pid tag : BitVec 16) (lcore : BitVec 16) (rank : BitVec 22) (seq : Word) : State :=
  let mine (f : HoldFault) : Bool := f.seq == seq && f.core == lcore && f.rank == rank
  let f := ((s.domain pid).faults.find? mine).getD ⟨(s.stepOfTag pid tag).getD 0, rank, lcore, seq⟩
  let s := s.updDomain pid fun d => { d with faults := dropFirst mine d.faults }
  if s.isRoot pid then s else s.gateway (s.rootChip pid) 3 (.hold pid f false)

/-- The answer of a REDLV leaves (R364). A status other than 0 and 9 leaves the line full: a replay that came too late was
not taken, though the line was emptied as it left (assumption 72). -/
def finishRedlv (s : State) (r : ReplayRef) (status : Nat) : State :=
  let core := r.by_.core
  let s := if status = 0 ∨ status = 9 then s
    else s.setLocalSide core r.addr { s.localSide core r.addr with fe := true }
  s.answerCore r.by_ r.hw [w32 status, r.rseq]

/-- The status of a replay goes to the chip of its REDLV (assumption 71). -/
def replayEnded (s : State) (r : ReplayRef) (status : Nat) : State :=
  if r.origin = s.chip then s.finishRedlv r status else s.gateway r.origin 3 (.replayed r status)

/-- The outcome of a replay of which a copy has one outcome and others another: the cause of a fault first, then too late (1),
then met a conflict (2), then accepted (0). -/
def worseOutcome (a b : Nat) : Nat :=
  if 2 < a ∨ 2 < b then max a b else if a = 1 ∨ b = 1 then 1 else max a b

/-- The chips of which an outcome makes the store fail there (R119): the cause, and the merge code found or the number of an abandoned
packet. -/
def failure (chip : BitVec 22) (cause : Nat) (num : Word) : List (BitVec 22 × Nat × Word) :=
  if cause = 9 ∨ cause = 10 ∨ cause = 17 then [(chip, cause, num)] else []

/-- The outcome of one copy of a replayed store (R249, R364): 0 accepted, 1 too late, 2 accepted and discarded at a word in
conflict (R112), else the cause of a fault. With the last one the answer leaves. The store's old fault holds its step no
longer once the store is staged, or a new fault holds it (R121). -/
def replayOutcome (s : State) (r : ReplayRef) (chip : BitVec 22) (status : Nat) (num : Word) : State :=
  match s.replays.find? fun w => w.ref == r with
  | none => s
  | some w =>
    let chips := if w.chips.contains chip then w.chips.erase chip else if w.chips.length ≤ 1 then [] else w.chips
    let w := { w with chips := chips, worst := worseOutcome w.worst status, failed := w.failed ++ failure chip status num }
    if chips.isEmpty then
      let s := { s with replays := dropFirst (fun x => x.ref == r) s.replays }
      let st := w.store
      let s := if st.kind = .gstmc then s.groupFaults { st with replay := none } w.failed else s
      let s := if w.worst = 1 ∨ w.worst = 2 then s
        else s.clearHold st.by_.pid st.by_.tag st.by_.lcore st.by_.rank st.seq
      s.replayEnded r (if 2 < w.worst then 9 else if w.worst = 1 then 1 else 0)
    else { s with replays := updFirst (fun x => x.ref == r) (fun _ => w) s.replays }

/-- The outcome of a far store leaves for its issuer: a notice on this chip or to another chip (R101), or to the REDLV that
replayed it (R364). 0: accepted; 1: the step is past; 2: met a conflict; else the cause of a fault. -/
def sendOutcome (s : State) (st : FarStore) (status : Nat) : State :=
  match st.from_ with
  | some chip =>
    if (s.conn chip 2).unreachable then s
    else s.gateway chip 2 (.accept st.by_.core st.by_.pid st.by_.tag st.seq status st.found st.replay)
  | none =>
    match st.replay with
    | some r => s.replayOutcome r s.chip status (w32 st.found)
    | none => { s with notices := s.notices ++ [⟨st.by_.core, st.seq, s.chip, status, st.found⟩] }

/-- The outcome of a far store goes to its issuer. One that this chip has recorded as a fault goes to another chip only once
the root of the domain knows that the step is held, for it counts as acceptance (R119). -/
def storeOutcome (s : State) (st : FarStore) (status : Nat) : State :=
  match s.faultOf st with
  | some f =>
    if 2 < status && st.from_.isSome && !s.isRoot st.by_.pid && (s.domain st.by_.pid).faults.contains f then
      { s with heldNotices := s.heldNotices ++ [⟨st.by_.pid, f, st, status⟩] }
    else s.sendOutcome st status
  | none => s.sendOutcome st status

/-- The root knows of a fault: the notices that wait for that leave (R119). -/
def holdKnown (s : State) (pid : BitVec 16) (f : HoldFault) : State :=
  let mine (n : HeldNotice) : Bool := n.pid == pid && n.fault == f
  (s.heldNotices.filter mine).foldl (fun (s : State) n => s.sendOutcome n.store n.status)
    { s with heldNotices := s.heldNotices.filter fun n => !mine n }

/-- Change a copy command of a cluster. -/
def updCopy (s : State) (cl id : Nat) (f : CpCmd → CpCmd) : State :=
  s.updCluster cl fun x => { x with cpq := x.cpq.map fun c => if c.id = id then f c else c }

/-- An acceptance, or a fault that counts as one, reaches the issuer: one for each chip counts (R101, R259). The copy
command that made the request goes on (R211). With the last one of a GSTMC the chips that have not accepted it are
recorded (R119, R238). num: the merge code found, or the number of a packet that has been abandoned. -/
def countAccepted (s : State) (core : Nat) (seq : Word) (chip : BitVec 22) (cause : Nat) (num : Word) : State :=
  let mine (p : Pending) : Bool := p.core == core && p.seq == seq && p.chips.contains chip
  match s.pending.find? mine with
  | none => s
  | some p =>
    let p' := { p with chips := p.chips.erase chip, failed := p.failed ++ failure chip cause num }
    let s := { s with pending := (updFirst mine (fun _ => p') s.pending).filter fun p => !p.chips.isEmpty }
    let s := match p.store with
      | some st => if p'.chips.isEmpty then s.groupFaults st p'.failed else s
      | none => s
    match p.cmd with
    | none => s
    | some (cl, id, line) => s.updCopy cl id fun c => c.answered line (copyStatus cause) 0 false

/-! ## Arrival (R97) -/

/-- A buffered CPFST or CPGET of a process with a tag. -/
def storesAt (pid tag : BitVec 16) : Buffered → Bool
  | .copy c => (c.op == .fst || c.op == .get) && c.by_.pid == pid && c.by_.tag == tag
  | _ => false

/-- A command of the copy engine that an arrival of a core at a tag waits for (R97): a CPFST, or a CPGET not all of whose
reads have been requested. -/
def cpAwaited (core : Nat) (pid tag : BitVec 16) (c : CpCmd) : Bool :=
  (c.op == .fst || (c.op == .get && c.asks)) && c.by_.core == core && c.by_.pid == pid && c.by_.tag == tag

/-- A read of a core of this chip (R97): not one that another chip has sent here. -/
def ownRead (core : Nat) (pid tag : BitVec 16) (r : GlobalRead) : Bool :=
  (match r.dest with
   | .gld _ _ => true
   | .copy _ _ _ => true
   | _ => false) && r.by_.core == core && r.by_.pid == pid && r.tag == tag

/-- The far stores and reads of a core for a process, tagged with a step, are settled: accepted, served, and no CPFST or
CPGET waits (R97). -/
def settled (s : State) (core : Nat) (pid : BitVec 16) (step : BitVec 64) : Bool :=
  let tag : BitVec 16 := step.extractLsb' 0 16
  (s.pending.all fun p => !(p.core == core && p.pid == pid && p.tag == tag))
    && (s.reads.all fun r => !ownRead core pid tag r)
    && ((s.cluster (clusterOf core)).cpq.all fun c => !cpAwaited core pid tag c)
    && ([1, 2, 3, 4, 5, 6, 7].all fun c =>
        let x := s.ctx core c
        (x.handing ++ x.waiting.flatten ++ x.sbuf).all fun b => !storesAt pid tag b)

/-! ## Packets for an unreachable chip (R258) -/

/-- The peer has ended a CPPUT: its completion follows (R208). -/
def linesEnded (s : State) (cl id status : Nat) : State :=
  s.updCopy cl id fun c => { c with status := lowerStatus c.status status, finished := true }

/-- The fate of a packet that is abandoned, or that meets a connection marked unreachable (R258). A record that must park
what it holds waits for room (R239); that of a copy of a GSTMC follows its last outcome, which gives W16 (R238). -/
def abandon (s : State) (chip : BitVec 22) (cls : Fin 4) (seq : Word) (p : Packet) : State :=
  match p with
  | .msg m => s.abandonMsg chip cls seq m
  | .store st =>
    let awaited := match st.replay with
      | some r => s.replays.any fun w => w.ref == r
      | none => s.pending.any fun p => p.core == st.by_.core && p.seq == st.seq && p.chips.contains chip
    if s.faultRoom 0 st then
      let s := if st.kind = .gstmc && awaited then s
        else
          let ranks := if st.kind = .gstmc then s.ranksOf st.by_.pid [chip] else []
          (s.keepRoute ⟨0, none, stationAt st, chip, cls, seq⟩).storeFault .gateway unitGateway 0 0 st 17 15 seq
            (connInfo chip cls) ranks ranks.length
      match st.replay with
      | some r => s.replayOutcome r chip 17 seq
      | none => s.countAccepted st.by_.core st.seq chip 17 seq
    else s.waitRoom (.abandoned chip cls seq p)
  | .read r _ => { s with
      reads := s.reads.filter fun x => x.id != r.id
      replies := s.replies ++ [⟨r.id, r.by_, r.va, r.tag, r.dest, .dead seq (connInfo chip cls)⟩] }
  | .lines c _ =>
    match c.from_ with
    | some (_, cl, id) => s.linesEnded cl id 3
    | none => s
  | _ => s

/-- A packet leaves for another chip; on a connection marked unreachable it meets its fate at once (R258). -/
def sendPacket (s : State) (chip : BitVec 22) (cls : Fin 4) (p : Packet) : State :=
  let c := s.conn chip cls
  if c.unreachable && cls != 3 then (s.setConn { c with next := c.next + 1 }).abandon chip cls c.next p
  else s.gateway chip cls p

/-! ## Global memory: reads (R76) -/

/-- A read of a global word at its home, as one of the words of an access (R76): the state, the word, whether it is unusable,
and the code words that the access has found uncorrectable, each of which is counted and reported once. An unusable word is
a free value (assumption 10). -/
def readCoded (s : State) (i : Nat) (pid tag : BitVec 16) (seen : List Nat) (a : Nat) : State × Word × Bool × List Nat :=
  match s.errorAt a with
  | some (b, .uncorrectable) =>
    let s := if seen.contains b then s else (s.checkGlobal i pid tag a).1
    let (w, s) := s.freeWord
    (s, w, true, b :: seen)
  | _ => ((s.checkGlobal i pid tag a).1, s.gmem.word a, false, seen)

/-- The words at global addresses, read one after another. -/
def readEach (s : State) (i : Nat) (pid tag : BitVec 16) (seen : List Nat) : List Nat → State × List Word
  | [] => (s, [])
  | a :: r =>
    let (s, w, _, seen) := s.readCoded i pid tag seen a
    let (s, ws) := s.readEach i pid tag seen r
    (s, w :: ws)

/-- Words from global addresses, with the poison of the first one's line. -/
def readWords (s : State) (i : Nat) (pid tag : BitVec 16) (as : List Nat) : State × List Word × Bool :=
  let (s, ws) := s.readEach i pid tag [] as
  (s, ws, (s.gmem.line (as.headD 0 / 128)).p)

end State

end Sys2Proof.Machine
end

