-- ==== Sys2Proof/Machine/Release.lean ====
section
/-! DEFINITION. Sys2Proof/Machine/Release.lean: what happens to an entry of a send buffer when a release hands it on
(R30, R188): messages, multicast copies (R261), engine commands, MAPW, REDLV (R249, R259, R364) and decisions (R383). -/

namespace Sys2Proof.Machine

namespace State

/-! ## Multicast (R260, R261, R376) -/

/-- Table words read through their homes, in order (R76). -/
def readList (s : State) (pid tag : BitVec 16) (seen : List Nat) : List Nat → State × List Word
  | [] => (s, [])
  | a :: r =>
    let (s, w, _, seen) := s.readCoded (homeOf (a / 2 ^ 21)) pid tag seen a
    let (s, ws) := s.readList pid tag seen r
    (s, w :: ws)

/-- The addresses of the words of a group's list (R260). -/
def groupAddrs (s : State) (pid : BitVec 16) (num : Nat) : List Nat :=
  match Tab.get s.groups (4096 * pid.toNat + num) with
  | none => []
  | some g =>
    let base := (g.getD 2 0).toNat + 2 ^ 32 * ((g.getD 3 0).extractLsb' 0 8).toNat
    (List.range (2 * ((g.getD 1 0).extractLsb' 0 13).toNat)).map fun i => base + 4 * i

/-- Words two by two. -/
def pairUp : List Word → List (Word × Word)
  | a :: b :: r => (a, b) :: pairUp r
  | _ => []

/-- The members of a group, as this chip's list gives them (R76, R89, R260): endpoint pairs. -/
def groupMembers (s : State) (pid tag : BitVec 16) (num : Nat) : State × List (BitVec 16 × BitVec 22) :=
  let (s, ws) := s.readList pid tag [] (s.groupAddrs pid num)
  (s, (pairUp ws).map fun ep => (ep.1.extractLsb' 0 16, ep.2.extractLsb' 0 22))

/-- A group is valid for a PID (R260). -/
def groupValid (s : State) (pid : BitVec 16) (num : Nat) : Bool :=
  match Tab.get s.groups (4096 * pid.toNat + num) with
  | none => false
  | some g => (g.getD 0 0).getLsbD 16 && (g.getD 0 0).extractLsb' 0 16 == pid

/-- A member of a group under R90: 0xFFFE stands for a supervisor endpoint, which 0xFFFF there leaves without one (assumption 63). -/
def lookUpMember (s : State) (m : Msg) (sv ep : BitVec 16 × BitVec 22) : State × Resolved × Bool :=
  if ep.1 = 0xFFFE then
    if sv.1 = 0xFFFF then (s, .dead, true)
    else
      let (s, r) := s.lookUp m.pid m.stag sv.1 sv.2
      (s, r, true)
  else
    let (s, r) := s.lookUp m.pid m.stag ep.1 ep.2
    (s, r, false)

/-- The copy of a SENDM for a member on this chip (R261, R376): it goes, or for a member that does not resolve the gateway sends a
DEAD record that names the member. -/
def memberCopy (s : State) (m : Msg) (ep : BitVec 16 × BitVec 22) (r : Resolved) : State :=
  match r with
  | .dead => s.deadRecord .gateway unitGateway 0 m (ep.1.setWidth 32) (ep.2.setWidth 32)
  | r => s.send (m.to s.chip r)

/-- One member of the list of a SENDM, and the chips to which a copy has gone: the copy of a member here; one copy for a chip that has
had none, which names the group (R261). -/
def memberSend (m : Msg) (num : Nat) (sv : BitVec 16 × BitVec 22) (x : State × List (BitVec 22)) (ep : BitVec 16 × BitVec 22) :
    State × List (BitVec 22) :=
  let (s, r, v) := x.1.lookUpMember m sv ep
  match r with
  | .far chip _ =>
    if x.2.contains chip then (s, x.2)
    else (s.send { m.to s.chip (.far chip 0) with copy := some (BitVec.ofNat 12 num) }, x.2 ++ [chip])
  | r => (s.memberCopy { m with sv := v } ep r, x.2)

/-- Hand on a SENDM (R261, R376): a copy for each member on this chip and one for each other member chip, in the order of the list, all
with one number. The gateway of the other chip serves the members that lie there (assumption 81). -/
def multicast (s : State) (core num : Nat) (m : Msg) : State :=
  let k := s.core core
  let (s, l) := s.groupMembers m.pid m.stag num
  let (q, s) := s.nextSeq core
  (l.foldl (memberSend { m with seq := q } num (k.svcore, k.svchip)) (s, [])).1

/-- A member of a group that lies on this chip has its copy from another chip; what does not lie here is passed over. -/
def memberHere (m : Msg) (sv : BitVec 16 × BitVec 22) (s : State) (ep : BitVec 16 × BitVec 22) : State :=
  let rank := if ep.1 = 0xFFFE then sv.2 else ep.2
  let here := s.chipOf m.pid rank.toNat == some s.chip
  let (s, r, v) := s.lookUpMember m sv ep
  if here then s.memberCopy { m with sv := v } ep r else s

/-- The copy of a SENDM has come from another chip (R261): the members of its group that lie here have it, as this chip's list names
them. A group that is not valid here leaves one DEAD record, with this chip's rank (assumption 81). -/
def receiveCopy (s : State) (m : Msg) (num : Nat) : State :=
  let m := { m with copy := none }
  if s.groupValid m.pid num then
    let (s, l) := s.groupMembers m.pid m.stag num
    l.foldl (memberHere m (s.mapSv m.pid)) s
  else s.memberCopy m (0, s.rankField m.pid) .dead

/-! ## Engine queues (R188, R213) -/

/-- The head of a matrix queue asks for leave: a command other than MXCFG (R189). -/
def needsLeave : List MxEntry → Bool
  | .cmd c :: _ => c.op != .cfg
  | _ => false

/-- The head command of a cluster's matrix queue asks the die's governor for leave, in FIFO order (R189, R270). -/
def askLeave (s : State) (cl : Nat) : State :=
  let x := s.cluster cl
  if needsLeave x.mxq && !x.mxRun && x.wlvSince.isNone then
    (s.updCluster cl fun x => { x with wlvSince := some s.now }).updDie (dieOfCluster cl) fun d =>
      { d with leaveQ := d.leaveQ ++ [cl] }
  else s

/-- Enter a copy command. -/
def cpEnter (s : State) (cl : Nat) (c : CpCmd) : State :=
  s.updCluster cl fun x => { x with cpq := x.cpq ++ [{ c with id := x.nextCp, entered := s.now }], nextCp := x.nextCp + 1 }

/-! ## REDLV (R249, R259, R364) -/

/-- The message that a record's body holds; a parked continuation is taken from its sump (R239). -/
def recordMsgOf (s : State) (w : List Word) : Option Msg × State :=
  let g (i : Nat) : Word := w.getD i 0
  let h7 := g 13
  if (g 0).getLsbD 17 then
    let h := (g 25).toNat
    match (List.range 8).findSome? fun d =>
      match Tab.get (s.die d).parked h with
      | some (.trigger m) => some (d, m)
      | _ => none with
    | some (d, m) => (some m, s.updDie d fun x => { x with parked := x.parked.erase h })
    | none => (none, s)
  else
    let n := (h7.extractLsb' 0 5).toNat
    (some (Msg.ofWords 0 0 (g 8) (g 9) (g 10) (g 11) (g 12) h7 ((w.drop 14).take (min n 8))), s)

/-- The far store that a record holds (R120, R238), as it is replayed from a station. The record does not hold the STALLMAX of
R117: a replayed store has that of the core that issues the REDLV (assumption 82). -/
def recordStoreOf (s : State) (w : List Word) (replay : ReplayRef) : Option FarStore :=
  let g (i : Nat) : Word := w.getD i 0
  let va : BitVec 64 := g 9 ++ g 8
  let fl := g 12
  let by_ : Issuer := ⟨65535, ((g 14).extractLsb' 16 3).toNat, (g 14).extractLsb' 0 16, (g 15).extractLsb' 0 22,
    (g 1).extractLsb' 0 16, 0, (g 1).extractLsb' 16 16⟩
  let kind : StoreKind := if fl.getLsbD 2 then .cpfst else if fl.getLsbD 3 then .gstmc else if fl.getLsbD 0 then .gstd else .gst
  let mk (ws : List (BitVec 64 × Word)) (pairs : Bool) : FarStore :=
    { kind := kind, by_ := by_, key := fl.extractLsb' 16 16, seq := g 13, va := va, words := ws, p := fl.getLsbD 1,
      pairs := pairs, stallmax := (s.core replay.by_.core).stallmax, born := s.readId, cmd := none,
      place := .translate ((g 2).extractLsb' 23 9).toNat,
      second := (g 3).extractLsb' 0 22 != (g 15).extractLsb' 0 22,
      from_ := none, replay := some replay, stalled := false }
  if (g 0).getLsbD 17 then
    let h := (g 25).toNat
    (List.range 8).findSome? fun d =>
      match Tab.get (s.die d).parked h with
      | some (.request _ _ ws pairs) => some (mk ws pairs)
      | _ => none
  else some (mk ((va, g 10) :: (if fl.getLsbD 0 then [(va + 4, g 11)] else [])) (fl.getLsbD 0))

/-- A far store enters the way at a station of this chip, in its place in the order of accesses (R141). -/
def enterStore (s : State) (st : FarStore) : State :=
  { s with stores := s.stores ++ [{ st with born := s.readId }], readId := s.readId + 1 }

/-- A store is replayed to chips (R121, R249): one copy each; on another chip it is translated a second time (R86). -/
def replayStore (s : State) (st : FarStore) (r : ReplayRef) (chips : List (BitVec 22)) : State :=
  chips.foldl (fun (s : State) chip =>
    if chip = s.chip then s.enterStore st else s.sendPacket chip 2 (.store { st with second := true }))
    { s with replays := s.replays ++ [⟨r, st, chips, 0, []⟩] }

/-- Number a is at or below b within the window of R256. -/
def seqLe (a b : Word) : Bool := (b - a).toNat < 2 ^ 31

/-- What the gateway keeps of an abandoned packet under a record's number (R259); none for a record that no abandoned packet
made. -/
def routeOf (s : State) (w : List Word) : Option Route :=
  if (w.getD 0 0).extractLsb' 0 8 == 17 && (w.getD 2 0).extractLsb' 19 4 == 6 then Tab.get s.routes (w.getD 4 0).toNat else none

/-- A packet was delivered before it was abandoned (R259): its number is at or below the H of the exchange that followed. -/
def delivered (c : Conn) (seq : Word) : Bool :=
  match c.learned.reverse.find? fun x => seqLe (seq + 1) x.1 with
  | some (_, some h) => seqLe seq h
  | _ => false

/-- REDLV of a record produced under R258, on the chip that made it (R259): status, and whether the answer waits for the
store. While the exchange goes on, the mark cleared and H not learned, the status is 7 (assumption 83). -/
def redlvAbandoned (s : State) (w : List Word) (x : Route) (replay : ReplayRef) : Nat × Bool × State :=
  let g (i : Nat) : Word := w.getD i 0
  let c := s.conn x.chip x.cls
  let pid : BitVec 16 := (g 1).extractLsb' 0 16
  let isStore := (g 0).extractLsb' 8 3 == 2
  if c.unreachable || c.exchanging then (7, false, s)
  else if delivered c x.seq then
    (6, false, if isStore then s.clearHold pid ((g 1).extractLsb' 16 16) ((g 14).extractLsb' 0 16) ((g 15).extractLsb' 0 22) (g 13) else s)
  else if isStore then
    if !s.stepHeld pid ((g 1).extractLsb' 16 16) then (1, false, s)
    else
      match s.recordStoreOf w replay with
      | none => (3, false, s)
      | some st => (0, true, s.replayStore { st with place := .translate x.station } replay [x.chip])
  else
    match s.recordMsgOf w with
    | (none, s) => (3, false, s)
    | (some m, s) => (0, false, s.gateway x.chip x.cls (.msg { m with
      dcore := 0, dkey := 0, dchip := x.chip, goal := x.goal, copy := x.group }))

/-- The ranks that a record lists (R238): in ascending order, so that a zero after the first word ends them; none for a count of 0. -/
def listedRanks (w : List Word) : List Nat :=
  match (w.drop 17).take 8 with
  | [] => []
  | x :: r => if w.getD 16 0 = 0 then [] else (x :: r.takeWhile fun y => y != 0).map BitVec.toNat

/-- REDLV of a store record of a station, on that station's chip (R121); of a GSTMC, to the chips that the record lists, or for one
that lists none, a conflict on this chip, to this chip: status, and whether the answer waits for the store. -/
def redlvStore (s : State) (w : List Word) (replay : ReplayRef) : Nat × Bool × State :=
  let g (i : Nat) : Word := w.getD i 0
  let pid : BitVec 16 := (g 1).extractLsb' 0 16
  let tag : BitVec 16 := (g 1).extractLsb' 16 16
  if !s.stepHeld pid tag then (1, false, s)
  else
    match s.recordStoreOf w replay with
    | none => (3, false, s)
    | some st =>
      let ranks := if st.kind = .gstmc then listedRanks w else []
      let s := ranks.foldl (fun (s : State) k => s.noteTables pid tag (some k) none) s
      let chips := if ranks.isEmpty then [s.chip] else ranks.filterMap (s.chipOf pid)
      if chips.length < ranks.length then (8, false, s)
      else (0, true, s.replayStore st replay chips)

/-- A record can be replayed only on the chip of its reporter (R121, R239, R259): a store record, one of an abandoned packet,
and one with a parked entry. -/
def tiedToChip (w : List Word) : Bool :=
  let w0 := w.getD 0 0
  let cls := w0.extractLsb' 8 3
  cls == 2 || w0.getLsbD 17 || (w0.extractLsb' 0 8 == 17 && (w.getD 2 0).extractLsb' 19 4 == 6 && cls == 4)

/-- The outcome of R249 for a record, on the chip that acts on it: status, whether the answer waits for the store, state.
ep: the endpoint that REDLV names, and SV. -/
def redlvOutcome (s : State) (ep : Option (Resolved × Bool)) (w : List Word) (replay : ReplayRef) : Nat × Bool × State :=
  let g (i : Nat) : Word := w.getD i 0
  let cause := ((g 0).extractLsb' 0 8).toNat
  let cls := ((g 0).extractLsb' 8 3).toNat
  let unit := ((g 2).extractLsb' 19 4).toNat
  let pid : BitVec 16 := (g 1).extractLsb' 0 16
  let reporter : State × Resolved := s.lookUp pid ((g 1).extractLsb' 16 16) ((g 2).extractLsb' 0 16) ((g 3).extractLsb' 0 22)
  let msgTo (f : Msg → Msg) (target : State × Resolved) : Nat × Bool × State :=
    match target.1.recordMsgOf w, target.2 with
    | (none, s), _ => (3, false, s)
    | (some _, _), .dead => (8, false, target.1)
    | (some m, s), r => (0, false, s.send ((f m).to s.chip r))
  match s.routeOf w with
  | some x => s.redlvAbandoned w x replay
  | none =>
    if cls = 2 then s.redlvStore w replay
    else if cls = 4 then
      match ep with
      | none => (2, false, s)
      | some (ep, sv) => msgTo (fun m => { m with div := false, sv := m.sv || sv }) (s, ep)
    else if cls = 1 && cause = 12 && (g 0).extractLsb' 11 5 == 0 then msgTo (fun m => { m with div := false }) reporter
    else if cls = 1 && unit = 0 then
      msgTo (fun m => { m with rcnt := if m.rcnt = 3 then 3 else m.rcnt + 1 }) reporter
    else (2, false, s)

/-- The endpoint that REDLV names, as another chip is told of it: one on this chip by its logical core (assumption 71). -/
def epFor (r : RedlvReq) (own : BitVec 22) : Option (Resolved × Bool) :=
  r.ep.map fun (e, sv) => (match e with | .here _ _ => .far own r.lcore | e => e, sv)

/-- An endpoint as this chip sends to it: one of its own by its core table, whose word is checked (R76). -/
def endpointHere (s : State) (pid tag : BitVec 16) (e : Option (Resolved × Bool)) : State × Option (Resolved × Bool) :=
  match e with
  | some (.far chip l, sv) =>
    if chip = s.chip then
      (s.noteTables pid tag none (some l.toNat),
        some (match s.coreOfL pid l.toNat with | some (c, k) => .here c k | none => .dead, sv))
    else (s, e)
  | e => (s, e)

/-- The PID under which a record's RRANK names its reporter: the record's own; for a divert record that of the core which has built it
(R438), which the record does not hold: here the PID of the issuer of the REDLV (assumption 71). -/
def reporterPid (w : List Word) (issuer : BitVec 16) : BitVec 16 :=
  if (w.getD 0 0).extractLsb' 0 8 = 18 then issuer else (w.getD 1 0).extractLsb' 0 16

/-- A divert record that no abandoned packet made (R249). -/
def isDivert (w : List Word) : Bool :=
  (w.getD 0 0).extractLsb' 8 3 == 4 && !((w.getD 0 0).extractLsb' 0 8 == 17 && (w.getD 2 0).extractLsb' 19 4 == 6)

/-- The reading of the 26 record words of a line; whether one is unusable. -/
def readRecord (s : State) (core addr : Nat) : State × List Word × Bool :=
  (List.range 26).foldl (fun (x : State × List Word × Bool) i =>
    let (s, w, bad) := x.1.readLocal core 0 unitNetwork (addr + 4 * i)
    (s, x.2.1 ++ [w], x.2.2 || bad)) (s, [], false)

/-- The network interface acts on a REDLV at the release (R364). -/
def redlvAction (s : State) (r : RedlvReq) : State :=
  let core := r.by_.core
  if !s.isFull core r.addr then s.answerCore r.by_ r.hw [2, 0]
  else
    if s.poisoned core r.addr then s.answerCore r.by_ r.hw [4, 0]
    else
    let (s, w, bad) := s.readRecord core r.addr
    let w4 := w.getD 4 0
    if bad then s.answerCore r.by_ r.hw [4, 0]
    else if 5 ≤ ((w.getD 0 0).extractLsb' 8 3).toNat then s.answerCore r.by_ r.hw [4, w4]
    else if (w.getD 1 0).extractLsb' 0 16 ≠ r.by_.pid ∧ !s.isSup r.by_.pid then s.answerCore r.by_ r.hw [5, w4]
    else if isDivert w && r.ep.isNone then s.answerCore r.by_ r.hw [2, w4]
    else
      let ref : ReplayRef := ⟨r.by_, s.chip, r.addr, w4, r.hw⟩
      let empty (s : State) : State := s.setLocalSide core r.addr { s.localSide core r.addr with fe := false }
      let pid := reporterPid w r.by_.pid
      let rank := ((w.getD 3 0).extractLsb' 0 22).toNat
      let s := if tiedToChip w then s.noteTables pid r.by_.tag (some rank) none else s
      match if tiedToChip w then s.chipOf pid rank else some s.chip with
      | none => s.answerCore r.by_ r.hw [8, w4]
      | some chip =>
        if chip ≠ s.chip then (empty s).gateway chip 3 (.replay w ref (epFor r s.chip))
        else
          let (st, waits, s) := s.redlvOutcome r.ep w ref
          let s := if st = 0 then empty s else s
          if waits then s else s.answerCore r.by_ r.hw [w32 st, w4]

/-- A record whose REDLV was issued on another chip is replayed here (R121, R239, R259; assumption 71). -/
def redlvHere (s : State) (w : List Word) (ref : ReplayRef) (ep : Option (Resolved × Bool)) : State :=
  let (s, ep) := s.endpointHere ((w.getD 1 0).extractLsb' 0 16) ref.by_.tag ep
  let (st, waits, s) := s.redlvOutcome ep w ref
  if waits then s else s.replayEnded ref st

/-! ## Decisions (R382, R383) -/

/-- The issuing chip acts on STCMT or STABT at the release (R383): refused, or on its way to the root. -/
def decisionAction (s : State) (r : DecisionReq) : State :=
  let answer (st : Nat) (s : State) : State :=
    match r.hw with
    | none => s
    | some hw => s.answerTo .distributor unitDistributor r.by_.pid r.by_.lcore r.by_.rank r.by_.tag hw [w32 st]
  let d := s.domain r.pid
  let s := s.noteTables r.pid r.by_.tag (s.ownRank r.pid) none
  if !s.mapValid r.pid || (s.ownRank r.pid).isNone || (r.pid ≠ r.by_.pid && !s.isSup r.by_.pid) then answer 2 s
  else if wInt (d.c + 1) ≠ r.step ∧ wInt (d.c + 2) ≠ r.step then answer 1 s
  else if s.isRoot r.pid then s.updDomain r.pid fun d => { d with decisions := d.decisions ++ [r] }
  else s.gateway (s.rootChip r.pid) 3 (.decision r)

/-! ## Handing on (R30, R188) -/

/-- The image of a MAPW, read when the release hands it on (R343, R344): none when a word is unmapped, on a poisoned
line or uncorrectable. -/
def mapwImage (s : State) (r : MapwReq) : State × Option (List Word) :=
  let core := r.by_.core
  let op := (r.ctl.extractLsb' 0 3).toNat
  let rd (x : State × Option (List Word)) (i : Nat) : State × Option (List Word) :=
    let a := r.addr + 4 * i
    if !localOk a 4 then (x.1, none)
    else
      let (s, w, bad) := x.1.readLocal core 0 unitNetwork a
      (s, x.2.bind fun l => if bad || s.poisoned core a then none else some (l ++ [w]))
  let x := [0, 1].foldl rd (s, some [])
  let n : Nat := if op = 0 then 5 else if op = 1 then 2 else if op = 2 then 8 else if op = 3 then 5 else
    2 + (let c := ((x.2.getD []).getD 1 0).toNat; if 1 ≤ c ∧ c ≤ 64 then c else 0)
  ((List.range n).drop 2).foldl rd x

/-- Hand one entry on; none when its engine queue has no place (R188, R213). -/
def handOn (s : State) (core c : Nat) (b : Buffered) : Option State :=
  let cl := clusterOf core
  match b with
  | .msg m => some (s.sendFrom core m)
  | .multicast n m => some (s.multicast core n m)
  | .mapw r =>
    let (s, im) := s.mapwImage r
    some { s with mapws := s.mapws ++ [{ r with image := im }] }
  | .redlv r => some (s.redlvAction r)
  | .decision r => some (s.decisionAction r)
  | .matrix m =>
    let x := s.cluster cl
    if x.mxq.length < 32 ∧ (x.mxWait.isEmpty ∨ x.mxWait.head? = some (.release core c)) then
      some ((s.updCluster cl fun x => { x with
        mxq := x.mxq ++ [.cmd m], mxWait := if x.mxWait.head? = some (.release core c) then x.mxWait.tail else x.mxWait
        }).askLeave cl)
    else none
  | .copy m =>
    let x := s.cluster cl
    if x.cpq.length < 64 ∧ (x.cpWait.isEmpty ∨ x.cpWait.head? = some (core, c)) then
      some ((s.updCluster cl fun x => { x with
        cpWait := if x.cpWait.head? = some (core, c) then x.cpWait.tail else x.cpWait }).cpEnter cl m)
    else none

/-- A release that stops takes its place among the waiting (R188). -/
def waitInLine (s : State) (core c : Nat) (b : Buffered) : State :=
  let cl := clusterOf core
  match b with
  | .matrix _ => s.updCluster cl fun x =>
      if x.mxWait.contains (.release core c) then x else { x with mxWait := x.mxWait ++ [.release core c] }
  | .copy _ => s.updCluster cl fun x =>
      if x.cpWait.contains (core, c) then x else { x with cpWait := x.cpWait ++ [(core, c)] }
  | _ => s

/-- Hand entries on in program order, up to one that must wait; what remains. -/
def handList (s : State) (core c : Nat) : List Buffered → State × List Buffered
  | [] => (s, [])
  | b :: r =>
    match s.handOn core c b with
    | some s => s.handList core c r
    | none => (s.waitInLine core c b, b :: r)

/-- Hand entries of a release on that has begun; handing keeps what remains. -/
def handAll (s : State) (core c : Nat) (l : List Buffered) : State :=
  let (s, l) := s.handList core c l
  s.updCtx core c fun x => { x with handing := l }

/-- A release of the context begins: the vector instructions behind it wait for one less (R139). -/
def releaseBegun (s : State) (core c : Nat) : State :=
  s.updCore core fun k => { k with vq := k.vq.map fun e => if e.ctx = c then { e with after := e.after - 1 } else e }

/-- A vector memory instruction that the oldest waiting release must follow has not performed (R139). -/
def vecMemBefore (s : State) (core c : Nat) : Bool :=
  (s.core core).vq.any fun e => e.ctx == c && e.after == 0 && memPending e

/-- The releases of the context go on (R30, R139): the one that has begun, then those that wait, oldest first. One begins when
its first entry is handed on, or when it would be, the buffer empty (R370), after every earlier access of the context has performed
(R130). n bounds their number. -/
def resume (s : State) (core c : Nat) : Nat → State
  | 0 => s
  | n + 1 =>
    let x := s.ctx core c
    if !x.handing.isEmpty then
      let s := s.handAll core c x.handing
      if (s.ctx core c).handing.isEmpty then s.resume core c n else s
    else
      match x.waiting with
      | [] => s
      | l :: r =>
        if s.vecMemBefore core c then s
        else
          let s := s.flush core c
          let begin_ (s : State) : State := (s.updCtx core c fun x => { x with waiting := r }).releaseBegun core c
          match l with
          | [] => (begin_ s).resume core c n
          | b :: l =>
            match s.handOn core c b with
            | none => s.waitInLine core c b
            | some s => ((begin_ s).handAll core c l).resume core c n

/-- The send buffer becomes a release that waits for its turn (R30), also when it is empty (R370). -/
def queueRelease (s : State) (core c : Nat) : State :=
  s.updCtx core c fun x => { x with waiting := x.waiting ++ [x.sbuf], sbuf := [] }

/-- The releases of the context go on as far as they can. -/
def resumeAll (s : State) (core c : Nat) : State := s.resume core c ((s.ctx core c).waiting.length + 2)

/-- Release the send buffer (R30): what waits from earlier releases goes first. -/
def release (s : State) (core c : Nat) : State := (s.queueRelease core c).resumeAll core c

end State

end Sys2Proof.Machine
end

