-- ==== Sys2Proof/Machine/Ops.lean ====
section
/-! DEFINITION. Sys2Proof/Machine/Ops.lean: the named operations over the machine that many meanings share: ports
(R57 to R60), steps (R95, R96), seals (R33), diverts (R25, R438), taking a trap (R35, R36, R233), retirement (R246),
the end of an activation (R321), and the fetch of an instruction's parcels (R274). -/

namespace Sys2Proof.Machine

namespace State

/-! ## Code (R67, R274) -/

/-- The parcel at an index of a core's code store. -/
def parcel (s : State) (core i : Nat) : Parcel := Tab.look 0 (s.cluster (clusterOf core)).code i

/-- The parcels from a PC to index 65,535, six at most. -/
def parcelsAt (s : State) (core pc : Nat) : List Parcel := (List.range (min 6 (65536 - pc))).map fun i => s.parcel core (pc + i)

/-- The instruction parcel at a PC, and the first prefix parcel or 0 (R232). -/
def parcelPair (s : State) (core pc : Nat) : Parcel × Parcel :=
  match scan [] (s.parcelsAt core pc) with
  | .ok (ps, p) => (p, ps.headD 0)
  | .error _ => (0, 0)

/-! ## Ports (R57 to R60) -/

/-- The link of a core in a direction is closed (R60). -/
def linkClosed (s : State) (core : Nat) (d : Dir) : Bool :=
  match neighbour core d with
  | none => true
  | some n => (s.cluster (clusterOf n)).power == .off || (s.core n).pkey != (s.core core).pkey

/-- Push a word (R57, R58): a release (R130). -/
def pushPort (s : State) (core c : Nat) (d : Dir) (w : Word) : State :=
  match neighbour core d with
  | none => s
  | some n =>
    let s := (s.flush core c).updCtx core c fun x => { x with outq := x.outq.set d.idx.val (x.outq[d.idx] + 1) d.idx.isLt }
    { s with portWords := s.portWords ++ [⟨8 * n + c, d.back, w⟩] }

/-- Pop a word of an inbound queue; its place travels back to the writer (R58, R61). -/
def popQueue (s : State) (core c : Nat) (d : Dir) : Word × State :=
  match (s.ctx core c).inq[d.idx] with
  | [] => (0, s)
  | w :: r =>
    let s := s.updCtx core c fun x => { x with inq := x.inq.set d.idx.val r d.idx.isLt }
    match neighbour core d with
    | none => (w, s)
    | some n => (w, { s with portPlaces := s.portPlaces ++ [⟨8 * n + c, d.back⟩] })

/-- An instruction pops a word of an inbound queue: an acquire (R130). -/
def popPort (s : State) (core c : Nat) (d : Dir) : Word × State := (s.acquire core c).popQueue core c d

/-- Write a register name: a port pushes, zr discards (R50). -/
def writeReg (s : State) (core c : Nat) (r : Reg) (v : Word) : State :=
  match r with
  | .port d => s.pushPort core c d v
  | r => s.setReg core c r v

/-! ## The iterative unit (R48, R319) -/

/-- The result of the iterative unit is written, when a context holds it. -/
def commitIter (s : State) (core c : Nat) : State :=
  match (s.core core).iter with
  | none => s
  | some op =>
    if op.ctx = c then
      let s := s.updCore core fun k => { k with iter := none }
      (s.writeReg core c op.dst op.res).updCtx core c fun x => x.addFlags op.flags
    else s

/-! ## What a release waits for (R130, R139) -/

/-- A stream of the context runs: its accesses have not performed (R55). -/
def streaming (s : State) (core c : Nat) : Bool := ((s.core core).stream).elim false fun r => r.ctx == c

/-- A release of the context must wait for its earlier vector memory instructions (R130, R139). A stream that runs is the
instruction of its context, so no other access of the context follows it. -/
def releaseWaits (s : State) (core c : Nat) : Bool := s.vecMemPending core c

/-- Words of a TSET of the context have not been written: it is not ready (R389). -/
def recording (s : State) (core c : Nat) : Bool := (s.ctx core c).lateStores.any fun x => x.kind == .record

/-! ## Steps (R95, R96) -/

/-- A STEP may take effect: C ≥ s - 1 (R95, R387). -/
def stepReady (s : State) (core : Nat) : Bool :=
  let k := s.core core
  decide ((k.s.toNat : Int) - 1 ≤ (s.domain k.pid).c)

/-- A STEP takes effect (R95). An arrival that R97 delays is marked (R114). -/
def takeStep (s : State) (core : Nat) : State :=
  let ready := s.settled core (s.core core).pid (s.core core).s
  s.updCore core fun k =>
    if k.k + 1 = k.q then { k with
      arrived := k.arrived ++ [k.s], late := if ready then k.late else k.late ++ [k.s], s := k.s + 1, k := 0, q := k.stquota }
    else { k with k := k.k + 1 }

/-- Every release of a context has handed on its entries. -/
def handedOn (s : State) (core c : Nat) : Bool := (s.ctx core c).handing.isEmpty && (s.ctx core c).waiting.isEmpty

/-- Pending STEPs take effect one after another, after the entries of the release (R96), which may still wait (R371). -/
def drainSteps (s : State) (core c : Nat) : Nat → State
  | 0 => s
  | n + 1 =>
    if s.handedOn core c && s.stepReady core then
      ((s.takeStep core).updAct core c fun a => { a with steps := a.steps - 1 }).drainSteps core c n
    else s

/-- Pending STEPs of a context. -/
def pendingSteps (s : State) (core c : Nat) : Nat := (s.act core c).elim 0 Act.steps

/-- The pending STEPs of an activation past its prefix go on. -/
def goOn (s : State) (core c : Nat) : State := s.drainSteps core c (s.pendingSteps core c)

/-! ## Seals (R33, R370) -/


/-- SEAL, or an implicit seal: the log is discarded, the send buffer released, pending STEPs take effect. -/
def sealPrefix (s : State) (core c : Nat) : State :=
  (((s.flush core c).updAct core c fun a => { a with open_ := false, log := [] }).release core c).goOn core c

/-- The seal of a SEAL (R371): it issues at once. While its release must wait, or in a late turn, the release takes its place
behind what the context has issued, and begins later (R139). -/
def sealLater (s : State) (core c : Nat) : State :=
  if s.releaseWaits core c || s.cur.late then
    (((s.updAct core c fun a => { a with open_ := false, log := [] }).queueRelease core c).goOn core c)
  else s.sealPrefix core c

/-- The prefix of a context's activation lasts (R33). -/
def isOpen (s : State) (core c : Nat) : Bool := (s.act core c).elim false Act.open_

/-- A context past its prefix is blocked behind a pending STEP (R371). -/
def stepBlocked (s : State) (core c : Nat) : Bool := !s.isOpen core c && decide (0 < s.pendingSteps core c)

/-! ## Diverts (R25, R235, R236, R438) -/

/-- The divert record of a message with DIV set, as the reporting core builds it (R438). A continuation is parked. -/
def divertReport (s : State) (die : Nat) (m : Msg) : Report × State :=
  let (body, parked, s) := s.msgBody die m []
  ({ Report.base 18 4 m.pid m.stag with
      unit := unitNetwork, info0 := m.old0, info1 := m.old1, body := body, parked := parked }, s)

/-- Records that wait for room in a die's message sump park their continuations, core by core (R239). -/
def parkRetry (s : State) (core : Nat) : State :=
  match (s.core core).parkWait with
  | [] => s
  | w :: r =>
    let d := dieOfCore core
    if s.parkRoom d then
      let (h, s) := s.park d (.trigger w.msg)
      let s := s.updCore core fun k => { k with
        parkWait := r, buf := if w.slots then dropFirst (fun x => x.runner == some 8) k.buf else k.buf }
      s.coreReportTo core w.host (if w.sup then s.supervisorOf w.msg.pid else (s.resolveFrom core 0xFFFE 0).1)
        { w.rep with parked := true, body := w.rep.body.take 17 ++ [h] }
    else s

/-- Try every core that waits to park. -/
def parkRetryAll (s : State) : State :=
  s.cores.foldl (fun s e => if e.2.parkWait.isEmpty then s else s.parkRetry e.1) s

/-- A record of a core that holds a message goes out; one that holds a continuation waits until it is parked (R239). -/
def recordHolding (s : State) (core : Nat) (w : ParkWait) : State :=
  if w.msg.long then (s.updCore core fun k => { k with parkWait := k.parkWait ++ [w] }).parkRetry core
  else s.coreReportTo core w.host (if w.sup then s.supervisorOf w.msg.pid else (s.resolveFrom core 0xFFFE 0).1) w.rep

/-- A record, or a message with DIV set, of a core goes to the host (R236, R438). -/
def coreToHost (s : State) (core : Nat) (m : Msg) : State :=
  if m.isRecord then s.toHost m.body
  else s.recordHolding core ⟨m, false, true, false, { Report.base 18 4 m.pid m.stag with
      unit := unitNetwork, info0 := m.old0, info1 := m.old1, body := bodyOfMsg m [] 0 }⟩

/-- A message leaves a core with DIV set for the supervisor endpoint of its PID, as this chip's map record names it
(R25, R92). A record, and a message diverted before, go to the host (R236). -/
def divert (s : State) (core : Nat) (m : Msg) : State :=
  if m.div || m.isRecord then s.coreToHost core m
  else
    let d := { m with div := true, old0 := m.h0, old1 := m.h1 }
    match s.lookUpSupervisor m.pid m.stag with
    | (s, .dead) => s.coreToHost core d
    | (s, r) => s.send (d.to s.chip r)

/-! ## Traps (R35, R36, R233) -/

/-- The causes after which a restartable activation is redelivered (R35): all but BUDGET, UE and CHK (assumption 67). -/
def redelivers (cause : Nat) : Bool := [1, 2, 3, 4, 5, 9, 10, 13, 15, 16, 17].contains cause

/-- The trigger of a context goes back to its own slots, first of the buffer, with RCNT raised (R23, R36). -/
def redeliver (s : State) (core c : Nat) : State :=
  s.updCore core fun k =>
    match k.buf.find? fun x => x.runner == some c with
    | none => k
    | some x =>
      { k with buf := { x with msg := { x.msg with rcnt := x.msg.rcnt + 1 }, seen := 0, runner := none }
                        :: k.buf.filter fun y => y.runner != some c }

/-- The slots of a context's trigger are freed. -/
def freeSlot (s : State) (core c : Nat) : State :=
  s.updCore core fun k => { k with buf := k.buf.filter fun y => y.runner != some c }

/-- A fault record that holds the trigger goes out; the trigger's slots are freed, those of a continuation once it is
parked (R35, R239). -/
def faultRecord (s : State) (core c : Nat) (trig : Msg) (r : Report) : State :=
  let s := if trig.long then s.updCore core fun k => { k with
      buf := k.buf.map fun x => if x.runner == some c then { x with runner := some 8 } else x }
    else s.freeSlot core c
  s.recordHolding core ⟨trig, trig.long, c == 7, false, r⟩

/-- The fate of an aborted activation (R35). Records of context 7 go to the host (R236). -/
def fate (s : State) (core c : Nat) (a : Act) (t : TrapInfo) (pc orig : Nat) (popped : List Word) : State :=
  let again := a.open_ && redelivers t.cause && decide (a.trig.rcnt.toNat < (s.core core).redlim.toNat)
  let r : Report := { Report.base t.cause (if again then 0 else 1) a.trig.pid a.trig.stag with
    rst := a.open_, npop := popped.length, rctx := c, pc := pc, orig := orig, info0 := t.info0, info1 := t.info1,
    body := bodyOfMsg a.trig popped 0 }
  if again then (s.redeliver core c).coreReport core (c == 7) r
  else s.faultRecord core c a.trig r

/-- The unwinding of an abort ends: the trigger meets its fate (R34, R35). -/
def endUndo (s : State) (core c : Nat) (u : Undo) : State :=
  (s.updCtx core c fun x => { x with undo := none }).fate core c u.act u.trap u.pc u.orig u.popped

/-- One write-back of an unwinding performs, and after the last the abort ends (R142). -/
def undoStep (s : State) (core c : Nat) (u : Undo) : State :=
  match u.act.log with
  | [] => s.endUndo core c u
  | e :: r =>
    let s := s.undo core e
    let u := { u with act := { u.act with log := r } }
    if r.isEmpty then s.endUndo core c u else s.updCtx core c fun x => { x with undo := some u }

/-- An unwinding that goes on performs to its end. -/
def finishUndo (s : State) (core c : Nat) : State :=
  match (s.ctx core c).undo with
  | none => s
  | some u => (s.unwind core u.act.log).endUndo core c u

/-- An access of a context that has issued performs: the next write-back of its unwinding, or access i of its stores and then its loads
that have not performed (R125, R129, R142). -/
def performTurn (s : State) (core c i : Nat) : State :=
  match (s.ctx core c).undo with
  | some u => s.undoStep core c u
  | none =>
    let n := (s.ctx core c).lateStores.length
    if i < n then s.performLate core c i else s.performLateLoad core c (i - n)

/-- An abort (R233): the accesses that have issued perform, the iterative unit commits, the vector queue follows R193, a restartable
activation is unwound, buffered entries and pending STEPs are discarded, and the trigger meets its fate. In a late turn the
write-backs perform afterwards, one by one, and the fate follows the last (R142). -/
def abortAct (s : State) (core c : Nat) (t : TrapInfo) (pc orig : Nat) (popped : List Word) : State :=
  let s := ((s.flush core c).commitIter core c).abortVector core c
  match s.act core c with
  | none => s
  | some a =>
    let s := s.updCore core fun k => { k with
      stream := if (k.stream.elim false fun r => r.ctx == c) then none else k.stream }
    if a.open_ && s.cur.late && !a.log.isEmpty then
      s.updCtx core c fun x => { x with act := none, sbuf := [], undo := some ⟨a, t, pc, orig, popped⟩ }
    else
      let s := if a.open_ then s.unwind core a.log else s
      let s := s.updCtx core c fun x => { x with act := none, sbuf := [] }
      s.fate core c a t pc orig popped

/-- The port words that the stream of a context has popped for its count (R59). -/
def streamPopped (s : State) (core c : Nat) : List Word :=
  (s.core core).stream.elim [] fun r => if r.ctx = c then r.popped else []

/-- Count a checker mismatch (R49, R201). -/
def countChk (s : State) (core : Nat) : State :=
  s.updCore core fun k => { k with chkcnt := if k.chkcnt = 0xFFFF then k.chkcnt else k.chkcnt + 1 }

/-- A core that retires, or that a drain makes leave, arrives without STEP once C ≥ s - 1 (R227, R246): an arrival that R97 then delays
is marked (R114). -/
def markUnsettled (s : State) (core : Nat) : State :=
  let k := s.core core
  if k.joined.isNone || !s.stepReady core || s.settled core k.pid k.s then s
  else s.updCore core fun k => { k with late := k.late ++ [k.s] }

/-- A core retires (R246). -/
def retire (s : State) (core : Nat) : State :=
  let s := ({ s with cur := { s.cur with late := false } } : State).updCore core fun k => { k with ret := true, pkey := 0 }
  let s := [1, 2, 3, 4, 5, 6].foldl (fun s c =>
    let s := s.finishUndo core c
    match s.act core c with
    | none => s
    | some a => s.abortAct core c ⟨7, (s.parcelPair core a.pc).1.setWidth 32, 2⟩ a.pc a.pc (s.streamPopped core c)) s
  let s := s.markUnsettled core
  let gone := (s.core core).buf.filter fun x => x.runner.isNone && !x.line
  let s := s.updCore core fun k => { k with buf := k.buf.filter fun x => !(x.runner.isNone && !x.line) }
  let s := gone.foldl (fun s x => s.divert core x.msg) s
  let k := s.core core
  let r : Report := { Report.base 38 3 k.pid (k.s.extractLsb' 0 16) with
    info0 := w32 core, info1 := k.chkcnt.setWidth 32 }
  (s.coreReport core false r).coreReport core true r

/-- The core retires when a count has reached its limit (R245). -/
def checkRetire (s : State) (core : Nat) : State :=
  let k := s.core core
  if !k.ret && ((k.mlim != 0 && decide (k.mlim.toNat ≤ k.chkcnt.toNat))
      || (k.tlim != 0 && decide (k.tlim.toNat ≤ k.tcnt.toNat))) then s.retire core
  else s

/-- TAKING A TRAP (R35, R232, R233): the abort of the activation, and the counts of R245. pc is the instruction at
which the cause is raised, orig the one from which it comes. -/
def trap (s : State) (core c : Nat) (t : TrapInfo) (pc orig : Nat) (popped : List Word) : State :=
  let s := s.abortAct core c t pc orig popped
  if t.cause = 7 ∧ t.info1.toNat < 2 then
    (s.updCore core fun k => { k with tcnt := if k.tcnt = 15 then 15 else k.tcnt + 1 }).checkRetire core
  else s

/-! ## The end of an activation (R27, R321) -/

/-- The activation has ended: slots, vector slot and context are free. -/
def finishAct (s : State) (core c : Nat) : State :=
  let s := if (s.core core).vslot = some c then s.releaseSlot core else s
  (s.freeSlot core c).updCtx core c fun x => { x with act := none }

/-- END or MIGR from its release on (R321, R351): release, pending STEPs, free. While a STEP waits the activation
stays, ending. An operation of the context in the iterative unit commits first (R319). -/
def endFrom (s : State) (core c : Nat) : State :=
  let s := (s.commitIter core c).sealPrefix core c
  if s.pendingSteps core c = 0 then s.finishAct core c
  else (if (s.core core).vslot = some c then s.releaseSlot core else s).updAct core c fun a => { a with ending := true }

/-- An ending activation goes on. -/
def endGoOn (s : State) (core c : Nat) : State :=
  let s := s.goOn core c
  if s.pendingSteps core c = 0 then s.finishAct core c else s

/-- What an activation has pending goes on; one that is ending ends with its last STEP, in the same cycle (R28, R321). -/
def proceed (s : State) (core c : Nat) : State :=
  if (s.act core c).elim false Act.ending then s.endGoOn core c else s.goOn core c

end State

end Sys2Proof.Machine
end

