-- ==== Sys2Proof/Machine/Buffer.lean ====
section
/-! DEFINITION. Sys2Proof/Machine/Buffer.lean: the arrival buffer (R18): what is held and what may be dispatched (R22,
R23), the load of a core (R64), and the taking of slots. -/

namespace Sys2Proof.Machine

/-- A user-bound message is held by a core in a step (R22). -/
def heldBy (s : BitVec 64) (m : Msg) : Bool :=
  let d := (m.stag - s.extractLsb' 0 16).toNat
  decide (1 ≤ d ∧ d ≤ 32767)

/-- An entry that a user context may take (R23): user-bound, not held, not taken. -/
def Slot.userReady (step : BitVec 64) (x : Slot) : Bool :=
  x.runner.isNone && !x.line && x.msg.forUser && !heldBy step x.msg

/-- An entry that context 7 may take (R21, R242): lines of the supervisor queue, and supervisor notices; records and
messages with DIV set first pass through the queue. -/
def Slot.supReady (x : Slot) : Bool :=
  x.runner.isNone && (x.line || (x.msg.forSupervisor && !x.msg.isRecord && !x.msg.div && decide (x.msg.kind.toNat ≤ 4)))

/-- An entry that waits for the supervisor queue (R242). -/
def Slot.forQueue (x : Slot) : Bool :=
  x.runner.isNone && !x.line && (x.msg.isRecord || x.msg.div)

namespace State

/-- Dispatchable user-bound handler messages of a core (R39, R64). -/
def queued (s : State) (core : Nat) : Nat :=
  let k := s.core core
  (k.buf.filter fun x => x.userReady k.s && x.msg.kind == 0).length

/-- User contexts of a core that run an activation, one that is being unwound among them (R142). -/
def running (s : State) (core : Nat) : Nat :=
  ([1, 2, 3, 4, 5, 6].filter fun c => (s.act core c).isSome || (s.ctx core c).undo.isSome).length

/-- The load of a core, saturating at 255 (R64). -/
def load (s : State) (core : Nat) : Nat := min 255 (s.queued core + s.running core)

/-- Slots taken in a core's arrival buffer (R18); lines of the supervisor queue take none. -/
def slotsUsed (s : State) (core : Nat) : Nat :=
  ((s.core core).buf.map fun x => if x.line then 0 else x.msg.slots).sum

/-- Slots taken by call-class messages that are not supervisor-bound (R18). -/
def callSlots (s : State) (core : Nat) : Nat :=
  ((s.core core).buf.map fun x => if !x.line && x.msg.isCall then x.msg.slots else 0).sum

/-- The arrival buffer of a core has slots for a message (R18). -/
def slotRoom (s : State) (core : Nat) (m : Msg) : Bool :=
  decide (s.slotsUsed core + m.slots ≤ 64) && (!m.isCall || decide (s.callSlots core + m.slots ≤ 48))

/-- A message that reached the interface in a cycle takes its slots. -/
def takeSlots (s : State) (core seen : Nat) (m : Msg) : State :=
  s.updCore core fun k => { k with buf := k.buf ++ [⟨m, seen, none, false⟩] }

end State

end Sys2Proof.Machine
end

