-- ==== Sys2Proof/Machine/Network.lean ====
section
/-! DEFINITION. Sys2Proof/Machine/Network.lean: the network interface of a core: arrival, spill and return of messages
(R18 to R25, R39), dispatch (R21, R23, R26), the supervisor queue (R242); words of ports (R57, R58); and the events of a
context: budget, release, iterative unit, replies of global reads (R28, R30, R319, R333). -/

namespace Sys2Proof.Machine

namespace State

/-! ## Arrival (R18 to R20, R25, R39) -/

/-- Messages that must precede a message at its receiver lie in its die's sump (R19, R137; assumption 68). -/
def streamSpilled (s : State) (core : Nat) (m : Msg) : Bool :=
  (s.die (dieOfCore core)).sump.any fun e => e.core == core && e.msg.ordered m

/-- The SUMP record of a message that the quota refuses goes to the supervisor endpoint of the message's PID (R20); records
and diverted messages go to the host (R236). -/
def sumpRecord (s : State) (core : Nat) (m : Msg) : State :=
  if m.div || m.isRecord then s.coreToHost core m
  else s.recordHolding core ⟨m, false, false, true, { Report.base 12 1 m.pid m.stag with
    unit := unitNetwork, body := bodyOfMsg m [] 0 }⟩

/-- A message goes to the message sump of its core's die, within the quota (R19, R20). -/
def spill (s : State) (core : Nat) (m : Msg) : State :=
  let d := dieOfCore core
  if s.sumpUsed d + m.sumpBytes ≤ (s.die d).sumpQuota then
    s.updDie d fun x => { x with sump := x.sump ++ [⟨core, s.now, m⟩] }
  else s.sumpRecord core m

/-- The core of the cluster with the smallest load, the lowest number on a tie (R39). -/
def leastLoaded (s : State) (core : Nat) : Nat :=
  (coresOf (clusterOf core)).foldl (fun best c => if s.load c < s.load best then c else best)
    (coreOfCluster (clusterOf core) 0)

/-- Where a relocatable message is forwarded, if it is (R39); one for a cluster that is OFF is spilled, whatever its class (R266). -/
def relocates (s : State) (core : Nat) (m : Msg) : Option Nat :=
  let thr := (s.cluster (clusterOf core)).clthr.toNat
  if (s.cluster (clusterOf core)).power != .off && m.rel && !m.ans && m.kind == 0 && !m.fwd && thr != 0 && decide (thr ≤ s.queued core) then
    let t := s.leastLoaded core
    if s.load t < s.load core then some t else none
  else none

/-- A message enters the arrival buffer, or spills (R18, R19). -/
def enter (s : State) (core : Nat) (m : Msg) : State :=
  if (s.cluster (clusterOf core)).power == .off || s.streamSpilled core m || !s.slotRoom core m then s.spill core m
  else s.takeSlots core s.now m

/-- A message reaches the network interface of a core: key check, diversion, relocation, entry (R21, R25, R39). -/
def arrive (s : State) (core : Nat) (m : Msg) : State :=
  if m.dkey ≠ (s.core core).pkey then s.divert core m
  else if 5 ≤ m.kind.toNat ∧ !m.div then s.divert core m
  else
    match s.relocates core m with
    | some t => { s with net := s.net ++ [{ m with fwd := true, dcore := BitVec.ofNat 16 t }] }
    | none => s.enter core m

/-- Two messages of the mesh keep their order (R24, R137, R252). -/
def keepsOrder (m n : Msg) : Bool := m.dcore == n.dcore && m.ordered n

/-- The message that sits at place i of the mesh may arrive: none before it keeps order with it. -/
def mayArrive (s : State) (i : Nat) (m : Msg) : Bool := (s.net.take i).all fun n => !keepsOrder n m

end State

/-- MESSAGE_ARRIVAL: a message of the mesh reaches a core, the distributor or the host port (R18, R220, R263). Launch
messages that wait at the distributor count against the sump of die 0 (R221). -/
def execMessageArrival (i : Nat) (s : State) : Out :=
  match takeAt s.net i with
  | none => .next s
  | some (m, rest) =>
    if !s.mayArrive i m then .next s
    else
      let s := { s with net := rest }
      if m.dcore = 0xFFFF then
        if m.kind ≠ 5 ∨ (s.dist.inbox.all fun n => n.kind != 5) ∨ s.sumpUsed 0 + 64 ≤ (s.die 0).sumpQuota then
          .next { s with dist := { s.dist with inbox := s.dist.inbox ++ [m] } }
        else .next (s.unitReport .distributor false { Report.base 12 1 m.pid m.stag with
          unit := unitDistributor, body := bodyOfMsg m [] 0 })
      else if m.dcore = 0xFFFD then .next { s with hostOut := s.hostOut ++ [.msg m] }
      else if m.dcore.toNat < coreCount then .next (s.arrive m.dcore.toNat m)
      else .next s

/-! ## Return from the sump (R19) -/

/-- A sump entry of a core may return: it has slots, and no earlier entry that must precede it waits. -/
def mayReturn (s : State) (core : Nat) (before : List Spilled) (e : Spilled) : Bool :=
  e.core == core && ((s.core core).pkey != e.msg.dkey || s.slotRoom core e.msg) &&
    !(before.any fun b => b.core == core && b.msg.ordered e.msg)

/-- The place of the entry that returns next: answers before calls, oldest first. -/
def nextReturn (s : State) (core : Nat) (sump : List Spilled) : Option Nat :=
  let ok (ans : Bool) (i : Nat) : Bool :=
    (sump[i]?).elim false fun e => e.msg.ans == ans && mayReturn s core (sump.take i) e
  ((List.range sump.length).find? (ok true)).or ((List.range sump.length).find? (ok false))

/-- SUMP_RETURN: the sump of a die returns an entry to a core (R19). -/
def execSumpReturn (die core : Nat) (s : State) : Out :=
  if (s.cluster (clusterOf core)).power == .off || dieOfCore core != die then .next s
  else
    match nextReturn s core (s.die die).sump with
    | none => .next s
    | some i =>
      match takeAt (s.die die).sump i with
      | none => .next s
      | some (e, rest) =>
        let s := s.updDie die fun x => { x with sump := rest }
        .next (if e.msg.dkey ≠ (s.core core).pkey then s.divert core e.msg else s.takeSlots core e.seen e.msg)

/-! ## Dispatch (R21, R23, R26) -/

/-- A context is free: it runs no activation and its send buffer is empty (R21, R27). -/
def Ctx.isFree (x : Ctx) : Bool :=
  x.act.isNone && x.undo.isNone && x.handing.isEmpty && x.waiting.isEmpty && x.sbuf.isEmpty

/-- The better of two entries of a buffer: higher priority, then earlier arrival. -/
def Slot.precedes (x y : Slot) : Bool :=
  decide (y.msg.prio.toNat < x.msg.prio.toNat) || (x.msg.prio == y.msg.prio && decide (x.seen ≤ y.seen))

/-- The entry that is dispatched: the highest priority, then the oldest (R21, R23). -/
def chooseSlot : List Slot → Option Slot
  | [] => none
  | x :: r =>
    match chooseSlot r with
    | none => some x
    | some y => if x.precedes y then some x else some y

/-- Mark the first entry that equals x as taken by a context. -/
def markRunner (x : Slot) (c : Nat) (buf : List Slot) : List Slot :=
  updFirst (fun y => y == x) (fun y => { y with runner := some c }) buf

/-- The top word of the stack area of a context (R26). -/
def stackTop (c : Nat) : Word := w32 (0x5FFC - 512 * (7 - c))

/-- The registers of a context at dispatch (R26). -/
def Ctx.load (x : Ctx) (c : Nat) (m : Msg) (loaded now : Nat) : Ctx :=
  let cont := m.kind == 1
  let strides : Vector (BitVec 16) 8 := #v[0, 0, 0, 0, 0, 0, 0, -4]
  let act : Act := ⟨m.entry.toNat, m, loaded, now + loaded, true, [], 0, [], false, [], none⟩
  if cont then
    { x with
      g := Vector.ofFn fun i => m.pay i.val
      pa := Vector.ofFn fun i => m.pay (16 + i.val)
      ps := strides
      lk := m.pay 24
      fflags := (m.pay 25).extractLsb' 0 5
      chi := 0
      views := []
      act := some act }
  else
    { x with
      g := Vector.ofFn fun i => if i.val < 8 then 0 else m.pay (i.val - 8)
      pa := (Vector.replicate 8 0).set 7 (stackTop c)
      ps := strides
      lk := 0
      fflags := 0
      chi := 0
      views := []
      act := some act }

/-- A notice of the distributor to context 7 (R228, R230): 0 marks a save, 1 a restore. -/
def Msg.isNotice (m : Msg) (w : Word) : Bool := m.kind == 4 && m.score == 0xFFFF && m.nw == 1 && m.body == [w]

/-- The budget of a dispatch: min(BUDDEF, BUDMAX), and 4,096 cycles for a drain notice (R26, R227). -/
def dispatchBudget (s : State) (core : Nat) (m : Msg) : Nat :=
  let k := s.core core
  if m.isNotice 0 then 4096 else min k.buddef.toNat k.budmax.toNat

/-- A context takes an entry (R26). -/
def State.dispatchTo (s : State) (core c : Nat) (x : Slot) : State :=
  let s := s.updCore core fun k => { k with buf := markRunner x c k.buf }
  s.updCtx core c fun y => y.load c x.msg (dispatchBudget s core x.msg) s.now

/-- A notice of the distributor to a core has not been handled to its end: it is on its way, in the message sump, or in its slot
(R18, R228, R230). -/
def noticePending (s : State) (core : Nat) (w : Word) : Bool :=
  (s.net.any fun m => m.dcore.toNat == core && m.isNotice w) || ((s.core core).buf.any fun x => x.msg.isNotice w)
    || (s.die (dieOfCore core)).sump.any fun e => e.core == core && e.msg.isNotice w

/-- A restore handler of the launch that holds a cluster has not ended (R230). -/
def stillRestoring (s : State) (cl : Nat) : Bool :=
  match (s.cluster cl).placed with
  | none => false
  | some (id, _) => s.clusters.any fun e => (e.2.placed.elim false fun p => p.1 == id) &&
      (coresOf e.1).any fun c => noticePending s c 1

/-- User contexts of a core may be dispatched to: the cluster is ON and stays so, no drain has begun, a re-placed launch
has been restored, the core has not retired, and boot has ended (R227, R230, R246, R266, R267, R273). -/
def userOpen (s : State) (core : Nat) : Bool :=
  let x := s.cluster (clusterOf core)
  s.host.booted && x.power == .on && x.trans.isNone && x.drain.isNone && !(x.restoring && stillRestoring s (clusterOf core))
    && !(s.core core).ret

/-- Context 7 of a core may be dispatched to: up to phase 3 of a drain, and after the end of boot (R227, R273). -/
def supOpen (s : State) (core : Nat) : Bool :=
  let x := s.cluster (clusterOf core)
  s.host.booted && x.power == .on && x.trans.isNone && decide ((x.drain.elim 0 Drain.phase) ≤ 3) && !(s.core core).ret

/-- What context 7 of a core may take: in phase 3 of a drain only the drain notice (R227, R228). -/
def supTakes (s : State) (core : Nat) (x : Slot) : Bool :=
  x.supReady && (x.msg.isNotice 0 || decide ((((s.cluster (clusterOf core)).drain).elim 0 Drain.phase) ≤ 2))

/-- DISPATCH: a free context of a core takes the entry that precedes all others (R21 to R23, R26). -/
def execDispatch (core : Nat) (sup : Bool) (s : State) : Out :=
  let k := s.core core
  if sup then
    if supOpen s core && (s.ctx core 7).isFree then
      match chooseSlot (k.buf.filter (supTakes s core)) with
      | none => .next s
      | some x => .next (s.dispatchTo core 7 x)
    else .next s
  else if userOpen s core then
    match [1, 2, 3, 4, 5, 6].find? fun c => (s.ctx core c).isFree with
    | none => .next s
    | some c =>
      match chooseSlot (k.buf.filter (Slot.userReady k.s)) with
      | none => .next s
      | some x => .next (s.dispatchTo core c x)
  else .next s

/-! ## The supervisor queue (R242) -/

/-- The geometry of a supervisor queue lies within the scratchpad (R241). -/
def Core.fqFits (k : Core) : Bool := decide (k.fqBase.toNat + k.fqNlm1.toNat + 1 ≤ 4096)

/-- The 26 words of a queue line for a waiting message: a record as it is, or a divert record (R242, R438); none while a
continuation finds no room to be parked (R239). -/
def queueWords (s : State) (core : Nat) (m : Msg) : Option (List Word × State) :=
  if m.isRecord then some (m.body, s)
  else
    let d := dieOfCore core
    if m.long && !s.parkRoom d then none
    else
      let (r, s) := s.divertReport d m
      let (q, s) := s.nextRseq
      let k := s.core core
      some (r.words false k.lcore k.rank q, s)

/-- The header of a line's message (R331), and its payload (R242). -/
def lineMsg (s : State) (core line : Nat) (w0 : Word) : Msg :=
  let k := s.core core
  { Msg.blank with
    dcore := BitVec.ofNat 16 core, dkey := k.pkey, dchip := s.chip, score := k.lcore, schip := k.rank,
    entry := k.fqEntry, prio := k.fqPrio, pid := k.pid, stag := k.s.extractLsb' 0 16, seq := k.ringSeq, nw := 2,
    body := [w32 (0x100000 + 128 * line), w0] }

/-- SUPERVISOR_QUEUE_WRITE: the oldest waiting record or diverted message of a core becomes a line of its queue (R242). -/
def execSupervisorQueueWrite (core : Nat) (s : State) : Out :=
  let k := s.core core
  let cl := clusterOf core
  if (s.cluster cl).power == .off || !k.fqEn || !k.fqFits || decide (k.fqNlm1.toNat + 1 ≤ k.fqCnt.toNat) then .next s
  else
    match k.buf.find? Slot.forQueue with
    | none => .next s
    | some x =>
      match queueWords s core x.msg with
      | none => .next s
      | some (ws, s) =>
        let line := k.fqBase.toNat + k.fqTail.toNat
        let words := (ws ++ List.replicate 26 0).take 26 ++ [k.ringSeq, w32 (s.cycle core), 0, 0, 0, 0]
        let s := s.updMem (.spad cl) fun m => (m.setWords (128 * line) words).setLine line ⟨true, false⟩
        let l : Slot := ⟨lineMsg s core line (words.getD 0 0), s.now, none, true⟩
        .next (s.updCore core fun k => { k with
          buf := (dropFirst (fun y => y == x) k.buf) ++ [l]
          fqTail := BitVec.ofNat 12 ((k.fqTail.toNat + 1) % (k.fqNlm1.toNat + 1))
          fqCnt := k.fqCnt + 1
          ringSeq := k.ringSeq + 1 })

/-- HOST_RECORD_SEND: the waiting record with the lowest RSEQ leaves for the host (R236, R263). -/
def execHostRecordSend (s : State) : Out :=
  let seq (ws : List Word) : Nat := (ws.getD 4 0).toNat
  match s.hostRecs with
  | [] => .next s
  | x :: r =>
    let ws := r.foldl (fun b y => if seq y < seq b then y else b) x
    .next { s with hostRecs := dropFirst (fun y => y == ws) s.hostRecs, hostOut := s.hostOut ++ [.record ws] }

/-! ## Events of a context -/

/-- BUDGET_EXPIRY: the counter of an activation has reached 0 (R28). -/
def execBudgetExpiry (core ctx : Nat) (s : State) : Out :=
  match s.act core ctx with
  | none => .next s
  | some a =>
    if s.now < a.deadline || (s.cluster (clusterOf core)).power != .on then .next s
    else .next (s.trap core ctx ⟨6, 0, w32 a.loaded⟩ a.pc a.pc (s.streamPopped core ctx))

/-- RELEASE_RESUME: a release that stopped at a full engine queue, at a pending STEP or behind vector memory instructions
goes on (R30, R96, R139, R188, R371). -/
def execReleaseResume (core ctx : Nat) (s : State) : Out :=
  if (s.cluster (clusterOf core)).power != .on then .next s
  else
    let s := s.resumeAll core ctx
    match s.act core ctx with
    | none => .next s
    | some a => .next (if a.ending then s.endGoOn core ctx else if a.open_ then s else s.goOn core ctx)

/-- ITERATIVE_COMMIT: the iterative unit of a core writes its result and flags (R48, R319). -/
def execIterativeCommit (core : Nat) (s : State) : Out :=
  match (s.core core).iter with
  | none => .next s
  | some op => .next (s.commitIter core op.ctx)

/-! ## Ports (R57 to R60) -/

/-- A writer gets a place of its count back. A place for a word that PQDATA restored, which took none, leaves a count of 0
at 0: the spec gives no floor (assumption 69). -/
def State.returnPlace (s : State) (ctx : Nat) (d : Dir) : State :=
  s.updCtx (ctx / 8) (ctx % 8) fun x => { x with outq := x.outq.set d.idx.val (x.outq[d.idx] - 1) d.idx.isLt }

/-- PORT_WORD_ARRIVAL: a word reaches its queue, in push order; it is lost when the cluster is OFF (R57, R60). A word that
meets a queue which PQDATA has filled is kept, above the 4 words of R57: the spec does not say what happens
(assumption 69). -/
def execPortWordArrival (i : Nat) (s : State) : Out :=
  match takeAt s.portWords i with
  | none => .next s
  | some (w, rest) =>
    if (s.portWords.take i).any fun v => v.ctx == w.ctx && v.dir == w.dir then .next s
    else
      let s := { s with portWords := rest }
      let core := w.ctx / 8
      if (s.cluster (clusterOf core)).power == .off then
        .next (match neighbour core w.dir with
          | none => s
          | some n => s.returnPlace (8 * n + w.ctx % 8) w.dir.back)
      else .next (s.updCtx core (w.ctx % 8) fun x =>
        { x with inq := x.inq.set w.dir.idx.val (x.inq[w.dir.idx] ++ [w.word]) w.dir.idx.isLt })

/-- PORT_PLACE_RETURN: a place comes back to the writer (R58). -/
def execPortPlaceReturn (i : Nat) (s : State) : Out :=
  match takeAt s.portPlaces i with
  | none => .next s
  | some (p, rest) => .next ({ s with portPlaces := rest }.returnPlace p.ctx p.dir)

/-! ## Replies of GLD and GLDD (R332, R333) -/

/-- What a reply raises when it is waited for. -/
def replyTrap (va : BitVec 64) : ReadResult → Option TrapInfo
  | .data _ true => some ⟨8, va.extractLsb' 0 32, va.extractLsb' 32 32⟩
  | .data _ false => none
  | .fail c => some ⟨c, va.extractLsb' 0 32, va.extractLsb' 32 32⟩
  | .dead a b => some ⟨17, a, b⟩

/-- Write the words of a reply to the registers that await it. -/
def Ctx.fill (x : Ctx) : List (Fin 16) → List Word → Ctx
  | r :: rs, w :: ws => ({ x with g := x.g.set r.val w r.isLt } : Ctx).fill rs ws
  | _, _ => x

/-- GLOBAL_READ_REPLY: a reply reaches its context, or the distributor; one whose activation has ended is discarded
(R333). -/
def execGlobalReadReply (i : Nat) (s : State) : Out :=
  match takeAt s.replies i with
  | none => .next s
  | some (r, rest) =>
    match r.dest with
    | .gld id regs =>
      let s := { s with replies := rest }
      let core := r.by_.core
      let c := r.by_.ctx
      if (s.act core c).elim false fun a => a.reads.any fun m => m.id == id then
        match replyTrap r.va r.res, r.res with
        | some t, _ => .next (s.updAct core c fun a => { a with
            reads := a.reads.map fun m => if m.id = id then { m with fault := some t } else m })
        | none, .data ws _ => .next ((s.updCtx core c fun x => x.fill regs ws).updAct core c fun a =>
            { a with reads := a.reads.filter fun m => m.id != id })
        | none, _ => .next s
      else .next s
    | .dist pid tag va => .next { s with
        replies := rest
        dist := { s.dist with lines := s.dist.lines.map fun x => if x.1 = (pid, tag, va) then (x.1, some r.res) else x } }
    | _ => .next s

end Sys2Proof.Machine
end

