-- ==== Sys2Proof/Machine/Stations.lean ====
section
/-! DEFINITION. Sys2Proof/Machine/Stations.lean: the translation stations: lookup (R81 to R87), translation and
acceptance of far stores (R85, R101 to R113), stalls (R117), acceptance notices (R101) and global reads (R103, R332). -/

namespace Sys2Proof.Machine

/-! ## Lookup (R81 to R87) -/

/-- The page of an entry contains a VA (R81, R82). -/
def TEntry.covers (e : TEntry) (va : BitVec 64) : Bool :=
  va.extractLsb' 53 11 == 0 &&
    (if e.big then e.vpn.extractLsb' 9 23 == va.extractLsb' 30 23 else e.vpn == va.extractLsb' 21 32)

/-- The offset of a VA in the page of an entry. -/
def TEntry.offset (e : TEntry) (va : BitVec 64) : Nat :=
  if e.big then (va.extractLsb' 0 30).toNat else (va.extractLsb' 0 21).toNat

/-- The physical address of a VA in the entry's first frames. -/
def TEntry.phys (e : TEntry) (va : BitVec 64) : Nat := 2 ^ 21 * e.frame.toNat + e.offset va

/-- Where an entry places an access: the home of its frame (R78), the words one after another. -/
def TEntry.place (e : TEntry) (vas : List (BitVec 64)) : Placed where
  home := State.homeOf (e.phys (vas.headD 0) / 2 ^ 21)
  code := e.mrg.toNat
  phys := vas.map e.phys
  frame := e.frame.toNat
  shadow := e.shadow.toNat
  big := e.big

/-- Frames of a die's HBM that its sumps take. -/
def State.sumpFrames (s : State) (d : Nat) : Nat := ((s.die d).sumpQuota + (s.die d).stageQuota + 2 ^ 21 - 1) / 2 ^ 21

/-- A frame that a die's sumps take is no longer available to processes (R14). The spec does not say which frames they are:
here the topmost of the die's HBM (assumption 74). -/
def State.inSump (s : State) (f : Nat) : Bool :=
  decide (f < 0x60000) && decide (49152 ≤ f % 49152 + s.sumpFrames (f / 49152))

namespace State

/-- The frame in which an entry places an access, or for UNIQ its counterpart, has been taken by a sump since the page was
mapped (R14, assumption 74). -/
def frameLost (s : State) (e : TEntry) (va : BitVec 64) : Bool :=
  let k := e.offset va / 2 ^ 21
  s.inSump (e.frame.toNat + k) || (e.mrg == 0 && s.inSump (e.shadow.toNat + k))

/-- The entry of a station for a PID and a VA (R81); a page whose frame a sump has taken is no longer available (R14). -/
def findEntry (s : State) (i : Nat) (pid : BitVec 16) (va : BitVec 64) : Option TEntry :=
  (s.station i).entries.find? fun e => e.pid == pid && e.covers va && (e.rmt || !s.frameLost e va)

/-- The selector bit of a page at a station (R87). -/
def selBit (s : State) (i frame : Nat) : Bool := Tab.look false (s.station i).sel frame

/-- The address of a word in one of the two frames of a UNIQ page. -/
def inFrame (shadow : Bool) (frame shadowFrame addr : Nat) : Nat :=
  if shadow then addr - 2 ^ 21 * frame + 2 ^ 21 * shadowFrame else addr

/-- The current address of a word: for UNIQ the selector of the page's first frame decides, at that frame's home (R87). -/
def currentAddr (s : State) (code frame shadow addr : Nat) : Nat :=
  if code = 0 then inFrame (s.selBit (homeOf frame) frame) frame shadow addr else addr

end State

/-! ## Staging (R104 to R112) -/

/-- The key of a LAST store (R107). -/
abbrev LastKey := BitVec 16 × BitVec 22 × BitVec 16 × Word

/-- One key is at or below another, field by field. -/
def LastKey.le (a b : LastKey) : Bool :=
  let v (k : LastKey) : Nat := ((k.1.toNat * 2 ^ 22 + k.2.1.toNat) * 2 ^ 16 + k.2.2.1.toNat) * 2 ^ 32 + k.2.2.2.toNat
  decide (v a ≤ v b)

/-- The value of a new entry before its first store; now: a UNIQ store goes into the frame (R110). -/
def StageVal.fresh (code : Nat) (now : Bool) (w : Word) : StageVal :=
  if code = 0 then (if now then .written else .heldUniq w)
  else if code = 1 then .last none
  else if code = 3 ∨ code = 7 then .sum 0 false false false true false
  else .plain none

/-- An FP32 value in units of 2^-149. -/
def ulps (w : Word) : Int :=
  match fval w with
  | .fin neg m e => (if neg then -1 else 1) * (m * 2 ^ (e + 149).toNat : Nat)
  | _ => 0

/-- Combine a value into an entry (R105, R108). -/
def StageVal.combine (v : StageVal) (code : Nat) (w : Word) (key : LastKey) : StageVal :=
  match v with
  | .plain none => .plain (some w)
  | .plain (some x) =>
    .plain (some (if code = 2 then x + w else if code = 6 then x ||| w else (fMinMax (code == 4) x w).1))
  | .sum acc nan pinf ninf negz _ =>
    .sum (acc + ulps w) (nan || isNan32 w) (pinf || w == 0x7F800000) (ninf || w == 0xFF800000)
      (negz && w == 0x80000000) true
  | .last none => .last (some (w, key))
  | .last (some (x, k)) => if LastKey.le k key then .last (some (w, key)) else .last (some (x, k))
  | v => v

/-- What a store brings to staging. -/
structure Incoming where
  pid : BitVec 16
  step : Nat
  p : Bool
  key : LastKey
  /-- A UNIQ store is written into its frame now. -/
  now : Bool
  place : Placed

/-- The staging entry that holds a word (R104): for written bits, the KiB of page. -/
def Stage.entryKey (e : Stage) : BitVec 16 × Nat × Bool × Nat :=
  (e.pid, e.step, e.val == .written, if e.val == .written then e.addr / 1024 else e.addr)

/-- A word joins a list of staged words: one of written bits lies where those of its entry lie (R104, R117). -/
def addStage (l : List Stage) (e : Stage) : List Stage :=
  l ++ [{ e with sump := (l.find? fun x => x.entryKey == e.entryKey).elim false Stage.sump }]

/-- Combine one word into the staging of its home: the staging, and whether the word has just become a conflict
(R112). -/
def Incoming.word (x : Incoming) (addr : Nat) (w : Word) (l : List Stage) : List Stage × Bool :=
  let code := x.place.code
  let mine (e : Stage) : Bool := e.pid == x.pid && e.step == x.step && e.addr == addr
  let add (v : StageVal) : StageVal := if x.p && code != 0 then v else v.combine code w x.key
  match l.find? mine with
  | none =>
    (addStage l { pid := x.pid, step := x.step, addr := addr, code := code, val := add (.fresh code x.now w), p := x.p,
                  count := 1, conflict := false, frame := x.place.frame, shadow := x.place.shadow, big := x.place.big,
                  sump := false }, false)
  | some e =>
    if e.conflict then (l, false)
    else if e.code ≠ code ∨ code = 0 ∨ ((code = 3 ∨ code = 7) ∧ 2 ^ 32 - 1 ≤ e.count) then
      (updFirst mine (fun e => { e with conflict := true }) l, true)
    else (updFirst mine (fun e => { e with val := add e.val, p := e.p || x.p, count := e.count + 1 }) l, false)

/-- The other component of a CSUM word. -/
def csumPeer (addr : Nat) : Nat := if addr % 8 < 4 then addr + 4 else addr - 4

/-- Combine a request, word after word: the staging, and the number of words that have become conflicts. A 32-bit store
to a CSUM page contributes +0 to the other component, a poisoned one nothing (R109, R111): the word has both components. -/
def Incoming.all (x : Incoming) (pairs : Bool) (ws : List (Nat × Word)) (l : List Stage) : List Stage × Nat :=
  ws.foldl (fun (y : List Stage × Nat) (a, w) =>
    let (l, c) := x.word a w y.1
    let (l, d) := if x.place.code = 7 ∧ !pairs then x.word (csumPeer a) 0 l else (l, false)
    (l, y.2 + (if c then 1 else 0) + (if d then 1 else 0))) (l, 0)

/-- The words of a staging list beyond those of another that need a new entry (R104, R117). -/
def newEntries (old new : List Stage) : List Stage :=
  (new.drop old.length).filter fun e => !old.any fun x => x.entryKey == e.entryKey

namespace State

/-- The staging of a home after a request, within its 12 MiB or in its die's stage sump; none when neither has room
for new entries (R117). When those of one request fit only in part, all of them go to the sump (assumption 98). -/
def stageFit (s : State) (home : Nat) (old new : List Stage) : Option (List Stage) :=
  let plain (l : List Stage) : Nat := stageBytes (l.filter fun e => !e.sump)
  let inSump (l : List Stage) : Nat := stageBytes (l.filter fun e => e.sump)
  if plain new ≤ max (12 * 2 ^ 20) (plain old) then some new
  else
    let fresh := newEntries old new
    let moved := new.take old.length ++ ((new.drop old.length).map fun e => if fresh.contains e then { e with sump := true } else e)
    if s.stageUsed (home / 4) + inSump moved ≤ (s.die (home / 4)).stageQuota + inSump old then some moved else none

/-! ## Translation of a far store (R85, R86) -/

/-- The place of a far store at a station: the station where it waits. -/
def storeStation (st : FarStore) : Nat := stationAt st

/-- A far store waits at its station, which measures the stall from its first (R117). -/
def stallStore (s : State) (k : Nat) (st : FarStore) : State :=
  let s := { s with stores := s.stores.set k { st with stalled := true } }
  s.updStation (storeStation st) fun x => { x with stallSince := x.stallSince.or (some s.now) }

/-- A station's stall ends when no store waits there any more. -/
def endStall (s : State) (i : Nat) : State :=
  if s.stores.any fun x => x.stalled && storeStation x == i then s
  else s.updStation i fun x => { x with stallSince := none }

/-- Take a far store from the way. -/
def dropStore (s : State) (k : Nat) (st : FarStore) : State :=
  ({ s with stores := s.stores.eraseIdx k }).endStall (storeStation st)

/-- A far store fails its translation: its record, the hold of its step, and the notice that counts as acceptance (R85,
R119). code: the merge code of the entry found, 15 for none (R238). What becomes of a copy of a GSTMC its issuer records, with the
other chips (R119, R238). -/
def storeUntranslated (s : State) (k i : Nat) (st : FarStore) (cause code : Nat) : State :=
  let st := { st with found := code }
  if st.kind = .gstmc then (s.dropStore k st).storeOutcome st cause
  else if s.faultRoom (i / 4) st then
    let s := s.dropStore k st
    (s.storeFault (.station i) unitStation i (i / 4) st cause code (st.va.extractLsb' 0 32) (st.va.extractLsb' 32 32)
      [] 0).storeOutcome st cause
  else s.stallStore k st

/-- A far store goes to another chip (R86); its issuer, or the REDLV that replays it, awaits that chip's notice. -/
def storeAway (s : State) (k : Nat) (st : FarStore) (e : TEntry) : State :=
  let s := s.dropStore k st
  let go (l : List (BitVec 22)) : List (BitVec 22) := updFirst (fun c => c == s.chip) (fun _ => e.chip) l
  let mine (p : Pending) : Bool := p.core == st.by_.core && p.seq == st.seq
  let s := if st.from_.isSome then s
    else match st.replay with
      | some r => { s with replays := updFirst (fun w => w.ref == r) (fun w => { w with chips := go w.chips }) s.replays }
      | none => { s with pending := updFirst mine (fun p => { p with chips := go p.chips }) s.pending }
  s.sendPacket e.chip 2 (.store { st with
    place := .translate (4 * e.rdie.toNat + selectorOf st.va), second := true, stalled := false })

/-! ## The order of accesses to DIRECT pages (R141) -/

/-- The far stores and reads of a context that are on their way and came before an access: engines' requests are none of a
context. near: where it is, and its address. -/
def anyEarlier (s : State) (by_ : Issuer) (born : Nat) (near : StorePlace → BitVec 64 → Bool) : Bool :=
  let same (b : Issuer) : Bool := b.core == by_.core && b.ctx == by_.ctx && b.rank == by_.rank && b.pid == by_.pid
  (s.stores.any fun x => x.cmd.isNone && same x.by_ && decide (x.born < born) && near x.place x.va)
    || s.reads.any fun r => (match r.dest with | .copy _ _ _ => false | _ => true) && same r.by_ && decide (r.born < born)
        && r.station.elim false fun i => near (match r.at_ with | some p => .home p | none => .translate i) r.va

/-- An earlier access of the same context is still on its way to the home: DIRECT accesses of a context are served in
issue order. -/
def earlierAccess (s : State) (by_ : Issuer) (born home : Nat) : Bool :=
  s.anyEarlier by_ born fun
    | .home p => fun _ => p.home == home && p.code == 8
    | .translate _ => fun _ => true
    | .away _ _ => fun _ => false

/-- An earlier access of the same context has still to leave for a chip: what one context sends to a home on another chip
leaves in issue order. -/
def earlierAway (s : State) (by_ : Issuer) (born : Nat) (chip : BitVec 22) : Bool :=
  s.anyEarlier by_ born fun
    | .home _ => fun _ => false
    | .translate i => fun va => (s.findEntry i by_.pid va).elim false fun e => e.rmt && e.chip == chip
    | .away c _ => fun _ => c == chip

end State

/-- FAR_STORE_TRANSLATION: a far store is looked up at its translating station: to its home, to another chip, or recorded
as faulted (R81, R85, R86). A copy of a GSTMC for another chip leaves (R141, R261). -/
def execFarStoreTranslation (k : Nat) (s : State) : Out :=
  match s.stores[k]? with
  | none => .next s
  | some st =>
    match st.place with
    | .home _ => .next s
    | .away chip i => .next (if s.earlierAway st.by_ st.born chip then s
        else (s.dropStore k st).sendPacket chip 2 (.store { st with place := .translate i, second := true, stalled := false }))
    | .translate i =>
      match s.findEntry i st.by_.pid st.va with
      | none => .next (s.storeUntranslated k i st 9 15)
      | some e =>
        if e.rmt && st.second then .next (s.storeUntranslated k i st 9 15)
        else if !e.wr then .next (s.storeUntranslated k i st 10 (if e.rmt then 15 else e.mrg.toNat))
        else if e.rmt then .next (if s.earlierAway st.by_ st.born e.chip then s else s.storeAway k st e)
        else .next { s with stores := s.stores.set k { st with
          place := .home (e.place (st.words.map (·.1))), stalled := false } }

/-! ## Acceptance of a far store (R105, R110 to R113) -/

/-- Write a DIRECT store at its home (R72, R111, R113). -/
def writeDirect (s : State) (st : FarStore) (p : Placed) : State :=
  ((p.phys.zip (st.words.map (·.2))).foldl (fun (s : State) (a, w) =>
    let m := if st.p then s.gmem else s.gmem.setWord a w
    { s with gmem := m.setLine (a / 128) ⟨true, (m.line (a / 128)).p || st.p⟩ }) s).touchTables (if st.p then [] else p.phys)

/-- UNIQ values that a request brings to new entries go into the frame that is not current (R110). -/
def writeShadow (s : State) (p : Placed) (ws : List (Nat × Word)) : State :=
  let at_ (a : Nat) : Nat := State.inFrame (!s.selBit (State.homeOf p.frame) p.frame) p.frame p.shadow a
  (ws.foldl (fun (s : State) (a, w) => { s with gmem := s.gmem.setWord (at_ a) w }) s).touchTables (ws.map fun x => at_ x.1)

/-- A far store has been accepted, or accepted and discarded. -/
def storeDone (s : State) (k : Nat) (st : FarStore) : State := (s.dropStore k st).storeOutcome st 0

/-- The records of a store's conflicts, one for each word that it has made conflict (R112). That of a GSTMC lists no chip: this one has
accepted it (R101, R238). -/
def conflictRecords (s : State) (st : FarStore) (p : Placed) (n : Nat) : State :=
  (List.range n).foldl (fun (s : State) _ =>
    s.storeFault (.station p.home) unitStation p.home (p.home / 4) st 11 p.code 0 (w32 p.code) [] 0) s

/-- The state of a far store's step at its home. -/
inductive StepState
  /-- It is past, or its apply has begun: a replay comes too late (R121). -/
  | past
  /-- Aborted: accepted and discarded (R124). -/
  | aborted
  /-- It comes from a chip that has had its commit notice earlier, and is not yet one of the two steps of R101: the store waits
  (assumption 99). -/
  | early
  /-- Stores are staged; now: a UNIQ store goes into its frame at once (R110). -/
  | open_ (step : Nat) (now : Bool)

/-- The state of the step that a tag names, for stores at a home. -/
def stepState (s : State) (pid tag : BitVec 16) (home : Nat) : StepState :=
  let d := s.domain pid
  match s.stepOfTag pid tag with
  | none => .past
  | some t =>
    if (t : Int) = d.c + 1 then
      (if d.phase = .apply then .past else if d.abortNow then .aborted else .open_ t true)
    else if d.c + 2 < t then .early
    else if d.abortNext then .aborted
    else .open_ t (d.applied.contains home)

/-- A far store is combined into the staging of its home; it waits when there is no room (R105, R112, R117). A replay that meets a
word in conflict is accepted and discarded there: it is not staged, so its fault stands (R112, R121). -/
def stageStore (s : State) (k : Nat) (st : FarStore) (p : Placed) (step : Nat) (now : Bool) : State :=
  let x : Incoming := ⟨st.by_.pid, step, st.p, (st.key, st.by_.rank, st.by_.lcore, st.seq), now, p⟩
  let ws := p.phys.zip (st.words.map (·.2))
  let old := (s.station p.home).staging
  let (new, clash) := x.all st.pairs ws old
  let ahead := (s.stores.take k).any fun y => y.stalled && State.storeStation y == p.home
  let met := ws.any fun (a, _) => old.any fun e => e.pid == x.pid && e.step == x.step && e.addr == a && e.conflict
  let parks := if st.kind = .cpfst then clash * 12 * st.words.length else 0
  if (!(newEntries old new).isEmpty && ahead) || (decide (0 < parks) && !s.stageRoom (p.home / 4) parks) then
    s.stallStore k st
  else
    match s.stageFit p.home old new with
    | none => s.stallStore k st
    | some l =>
      let fresh := ws.filter fun (a, _) => !(old.any fun e => e.pid == x.pid && e.step == x.step && e.addr == a)
      let s := s.updStation p.home fun y => { y with staging := l }
      let s := if p.code = 0 ∧ now then writeShadow s p fresh else s
      if clash = 0 then (s.dropStore k st).storeOutcome st (if met && st.replay.isSome then 2 else 0)
      else (conflictRecords (s.dropStore k st) st p clash).storeOutcome st 11

/-- FAR_STORE_ACCEPT: a far store is accepted at its home (R101, R105, R110 to R113, R121, R124). -/
def execFarStoreAccept (k : Nat) (s : State) : Out :=
  match s.stores[k]? with
  | none => .next s
  | some st =>
    match st.place with
    | .translate _ => .next s
    | .away _ _ => .next s
    | .home p =>
      if p.code = 8 then
        .next (if s.earlierAccess st.by_ st.born p.home then s else storeDone (writeDirect s st p) k st)
      else
        match stepState s st.by_.pid st.by_.tag p.home with
        | .past => .next ((s.dropStore k st).storeOutcome st (if st.replay.isSome then 1 else 0))
        | .aborted => .next (storeDone s k st)
        | .early => .next s
        | .open_ step now => .next (stageStore s k st p step now)

/-- ACCEPTANCE_NOTICE: a notice reaches the issuer of a far store (R101). -/
def execAcceptanceNotice (i : Nat) (s : State) : Out :=
  match takeAt s.notices i with
  | none => .next s
  | some (n, rest) => .next (({ s with notices := rest } : State).countAccepted n.core n.seq n.chip n.cause (w32 n.code))

/-! ## Stalls (R117) -/

/-- Staging entries of a step at a station: the written bits of one KiB of page are one entry (R104). -/
def stepEntries (s : State) (i : Nat) (pid : BitVec 16) (step : Nat) : Nat :=
  let l := (s.station i).staging.filter fun e => e.pid == pid && e.step == step
  (l.filter fun e => e.val != .written || e.conflict).length
    + ((l.filter fun e => e.val == .written).map fun e => e.addr / 1024).eraseDups.length

/-- STALL_LIMIT: a station's stall passes the STALLMAX of the core of its oldest waiting store (R117). -/
def execStallLimit (i : Nat) (s : State) : Out :=
  match (s.station i).stallSince, s.stores.find? (fun x => x.stalled && State.storeStation x == i) with
  | some since, some st =>
    let step := (s.stepOfTag st.by_.pid st.by_.tag).getD 0
    if s.now - since ≤ 1300 * st.stallmax.toNat ∨ (s.station i).sumpSent.contains (st.by_.pid, step) then .next s
    else
      let s := s.updStation i fun x => { x with sumpSent := x.sumpSent ++ [(st.by_.pid, step)] }
      .next (s.unitReport (.station i) false { Report.base 12 1 st.by_.pid st.by_.tag with
        sub := 1, unit := unitStation, uidx := i, info0 := w32 i, info1 := w32 (stepEntries s i st.by_.pid step) })
  | _, _ => .next s

/-! ## Global reads (R81, R85, R103, R332) -/

/-- A read has its outcome: the reply travels to the reader. -/
def readDone (s : State) (k : Nat) (r : GlobalRead) (res : ReadResult) : State :=
  let s := { s with reads := s.reads.eraseIdx k }
  match r.dest with
  | .remote chip id =>
    if (s.conn chip 2).unreachable then s
    else s.gateway chip 2 (.reply ⟨id, r.by_, r.va, r.tag, r.dest, res⟩)
  | _ => { s with replies := s.replies ++ [⟨r.id, r.by_, r.va, r.tag, r.dest, res⟩] }

/-- The VAs of the words of a read. -/
def readVas (r : GlobalRead) : List (BitVec 64) := (List.range r.nwords).map fun i => r.va + BitVec.ofNat 64 (4 * i)

/-- A read is looked up at its translating station (R81, R85, R86). A line of an image is raw data, read whatever RD holds (R228). -/
def translateRead (s : State) (k i : Nat) (r : GlobalRead) : State :=
  match s.findEntry i r.by_.pid r.va with
  | none => readDone s k r (.fail 9)
  | some e =>
    if e.rmt && r.second then readDone s k r (.fail 9)
    else if !e.rd && !r.raw then readDone s k r (.fail 10)
    else if e.rmt then
      if s.earlierAway r.by_ r.born e.chip then s else
      ({ s with reads := s.reads.set k { r with station := none } } : State).sendPacket e.chip 2 (.read r e.rdie)
    else { s with reads := s.reads.set k { r with at_ := some (e.place (readVas r)) } }

/-- A home may serve a read: it has applied the step before the read's tag (R103), and `homeWords` takes back what later applies
have done; a DIRECT read at once, in the order of
its context (R113, R141). -/
def mayServe (s : State) (r : GlobalRead) (p : Placed) : Bool :=
  if p.code = 8 then !s.earlierAccess r.by_ r.born p.home
  else
    let d := s.domain r.by_.pid
    let ahead := signed 16 (r.tag - BitVec.ofInt 16 (d.c + 1)).toNat
    decide (ahead ≤ 0) || (decide (ahead = 1) && d.applied.contains p.home)

/-- The current address of a word as its home has it: a swap that the page's first home has made in an apply counts at a home
of the page only once the apply has reached it (R87, R115). -/
def State.addrBefore (s : State) (pid : BitVec 16) (home code frame shadow addr : Nat) : Nat :=
  let d := s.domain pid
  let begun (i : Nat) : Bool := d.applied.contains i || d.applying.contains i
  if code = 0 ∧ d.flips.contains frame ∧ begun (State.homeOf frame) ∧ !begun home then
    State.inFrame (!s.selBit (State.homeOf frame) frame) frame shadow addr
  else s.currentAddr code frame shadow addr

/-- The words of a page that its home returns to a read (R103): the state after the apply of the step before the read's tag. A word
that a later apply has changed is returned as it was (assumption 85); with one that cannot be used the line comes with P = 1
(R76). -/
def homeWords (s : State) (p : Placed) (pid tag : BitVec 16) : State × List Word × Bool :=
  let as := p.phys.map fun a => s.addrBefore pid p.home p.code p.frame p.shadow a
  let lost := as.any s.unusable
  let (s, ws, bad) := s.readWords p.home pid tag as
  if p.code = 8 then (s, ws, bad)
  else
    let c := (s.domain pid).c
    let t : Int := c + 1 + signed 16 (tag - BitVec.ofInt 16 (c + 1)).toNat
    let old := (s.station p.home).past.filter fun x => x.pid == pid && decide (t ≤ (x.step : Int))
    (s, (p.phys.zip ws).map fun (a, w) => ((old.find? fun x => x.addr == a).map OldWord.val).getD w,
      lost || ((old.find? fun x => x.addr / 128 == p.phys.headD 0 / 128).map OldWord.p).getD bad)

/-- READ_SERVE: a global read is translated, and then served by its home (R81, R103). -/
def execReadServe (k : Nat) (s : State) : Out :=
  match s.reads[k]? with
  | none => .next s
  | some r =>
    match r.station, r.at_ with
    | none, _ => .next s
    | some i, none => .next (translateRead s k i r)
    | some _, some p =>
      if mayServe s r p then
        let (s, ws, bad) := homeWords s p r.by_.pid r.tag
        .next (readDone s k r (.data ws bad))
      else .next s

end Sys2Proof.Machine
end

