-- ==== Sys2Proof/Machine/Apply.lean ====
section
/-! DEFINITION. Sys2Proof/Machine/Apply.lean: changes that wait for a boundary (R84, R93, R260, R436), and the apply of a
step at a station (R106 to R112, R115). -/

namespace Sys2Proof.Machine

/-! ## Changes at the boundary (R436) -/

/-- Two entries are for one page. -/
def TEntry.samePage (a b : TEntry) : Bool := a.pid == b.pid && a.big == b.big && a.vpn == b.vpn

/-- Write an entry into a station's list: it takes the place of the one for its page. -/
def putEntry (e : TEntry) (l : List TEntry) : List TEntry :=
  if l.any e.samePage then l.map fun x => if e.samePage x then e else x else l ++ [e]

namespace State

/-- Write or remove an entry at stations. -/
def writeEntry (s : State) (stations : List Nat) (e : TEntry) (remove : Bool) : State :=
  stations.foldl (fun (s : State) i => s.updStation i fun x => { x with
    entries := if remove then x.entries.filter fun y => !e.samePage y else putEntry e x.entries }) s

/-- Write words of tables and map records; their lines keep their sideband. -/
def writeTable (s : State) (ws : List (Nat × Word)) : State :=
  { s with gmem := ws.foldl (fun (m : Mem) (a, w) => m.setWord a w) s.gmem }

/-- Every cluster forgets the endpoints of a PID that it has cached (R93). -/
def clearCache (s : State) (pid : BitVec 16) : State :=
  (s.clusters.filter fun e => e.2.cache.any fun x => x.pid == pid).foldl (fun (s : State) e =>
    s.updCluster e.1 fun x => { x with cache := x.cache.filter fun y => y.pid != pid }) s

/-- One change takes effect (R436). -/
def applyChange (s : State) : Deferred → State
  | .entry stations e remove => s.writeEntry stations e remove
  | .words ws => s.writeTable ws
  | .group num ws => { s with groups := s.groups.set num ws }

/-- A change writes tables or a map record. -/
def isTable : Deferred → Bool
  | .words _ => true
  | _ => false

/-- A change of a PID's tables takes effect now, and the caches forget the PID (R93, R436). -/
def changeNow (s : State) (pid : BitVec 16) (d : Deferred) : State :=
  if isTable d then (s.applyChange d).clearCache pid else s.applyChange d

/-- The changes that wait for the boundary of a domain take effect, in the order in which they were executed; the caches forget the
PID when its tables have changed (R93). -/
def applyChanges (s : State) (pid : BitVec 16) : State :=
  let d := s.domain pid
  let t := d.deferred.foldl applyChange (s.updDomain pid fun d => { d with deferred := [] })
  if d.loose || d.deferred.any isTable then t.clearCache pid else t

/-! ## UNIQ pages (R110) -/

/-- The staging entries of a step of a process at a station. -/
def entriesOf (s : State) (i : Nat) (pid : BitVec 16) (step : Nat) : List Stage :=
  (s.station i).staging.filter fun e => e.pid == pid && e.step == step

/-- Every word of a UNIQ page has been written, without conflict: 2 MiB or 1 GiB (R110). -/
def pageFull (l : List Stage) (frame : Nat) (big : Bool) : Bool :=
  let mine := l.filter fun e => e.code == 0 && e.frame == frame
  mine.all (fun e => !e.conflict) && mine.length == (if big then 2 ^ 28 else 2 ^ 19)

/-- The first frames of the UNIQ pages that the apply swaps. A 1 GiB page is homed by the four stations of its die. -/
def fullPages (s : State) (pid : BitVec 16) (step : Nat) : List Nat :=
  let l := (List.range 32).flatMap fun i => s.entriesOf i pid step
  let pages := ((l.filter fun e => e.code == 0).map fun e => (e.frame, e.big)).eraseDups
  (pages.filter fun (f, b) => pageFull l f b).map (·.1)

/-! ## The apply (R106 to R112) -/

/-- The bits that R108 gives an exact sum with the old value. nan: a NaN among the contributions. -/
def sumBits (v : StageVal) (old : Word) (nan : Bool) : Word :=
  match v.combine 3 old (0, 0, 0, 0) with
  | .sum acc _ pinf ninf negz _ =>
    if nan || (pinf && ninf) then nan32
    else if pinf then 0x7F800000
    else if ninf then 0xFF800000
    else if acc = 0 then (if negz then 0x80000000 else 0)
    else (round32 .rne (.fin (decide (acc < 0)) acc.natAbs (-149))).1
  | _ => old

/-- An entry holds a NaN among its contributions. -/
def sawNan : StageVal → Bool
  | .sum _ nan _ _ _ _ => nan
  | _ => false

/-- The word after the apply (R106). peer: for CSUM, the entry and the old value of the other component. -/
def newWord (e : Stage) (old : Word) (peer : Option Stage) (peerOld : Word) : Word :=
  match e.val with
  | .plain none => if e.code = 4 ∨ e.code = 5 then (fMinMax (e.code == 4) old old).1 else old
  | .plain (some v) =>
    if e.code = 2 then old + v else if e.code = 6 then old ||| v else (fMinMax (e.code == 4) old v).1
  | .sum _ nan _ _ _ _ =>
    sumBits e.val old (nan || isNan32 old ||
      (e.code == 7 && (isNan32 peerOld || peer.elim false fun x => sawNan x.val)))
  | .last none => old
  | .last (some (v, _)) => v
  | _ => old

/-- An entry writes its word. -/
def writesWord (e : Stage) : Bool :=
  !e.conflict && (match e.val with
    | .last none => false
    | _ => true)

/-- The lines that a step renews: UNIQ and LAST lines with all 32 words written (R110). -/
def renewed (l : List Stage) (addrOf : Stage → Nat) : List Nat :=
  let lines := (l.filter fun e => (e.code == 0 || e.code == 1) && writesWord e).map fun e => addrOf e / 128
  lines.eraseDups.filter fun x => lines.count x == 32

/-- The poison of a line becomes the OR with a bit; the line is full when a word of it is written. -/
def touchLine (s : State) (line : Nat) (full p : Bool) : State :=
  let x := s.gmem.line line
  { s with gmem := s.gmem.setLine line ⟨x.fe || full, x.p || p⟩ }

/-- One entry is applied at a station. m0: global memory before the apply; flips: the pages that are swapped. With the state goes
what the apply has read and found uncorrectable, by code word (R76). -/
def applyEntry (m0 : Mem) (flips : List Nat) (all : List Stage) (i : Nat) (x : State × List Nat) (e : Stage) : State × List Nat :=
  let (s, seen) := x
  let a := s.currentAddr e.code e.frame e.shadow e.addr
  let line := a / 128
  if e.conflict then (s.touchLine line false true, seen)
  else if e.code = 0 then
    if flips.contains e.frame then (s.touchLine line true e.p, seen)
    else
      let (s, v, bad, seen) := s.readCoded i e.pid (BitVec.ofNat 16 e.step) seen
        (inFrame (!s.selBit (homeOf e.frame) e.frame) e.frame e.shadow e.addr)
      (({ s with gmem := s.gmem.setWord a v } : State).touchLine line true (e.p || bad), seen)
  else if e.code = 1 then
    -- LAST does not look at the old word (R106), so that an error of it does not poison the line (R110)
    (({ s with gmem := match e.val with
        | .last (some (v, _)) => s.gmem.setWord a v
        | _ => s.gmem } : State).touchLine line true e.p, seen)
  else
    let peerAt := csumPeer e.addr
    let peer := all.find? fun x => x.addr == peerAt && x.code == 7
    if e.code = 7 ∧ all.any fun x => x.addr == peerAt && x.conflict then (s.touchLine line false true, seen)
    else
      let (s, old, _, seen) := s.readCoded i e.pid (BitVec.ofNat 16 e.step) seen a
      let s := { s with gmem := s.gmem.setWord a (newWord e old peer (m0.word peerAt)) }
      (s.touchLine line true e.p, seen)

/-- The selectors of swapped pages flip, at the station that homes their first frames (R87, R110). -/
def flipPages (s : State) (i : Nat) (frames : List Nat) : State :=
  s.updStation i fun x => { x with sel := frames.foldl (fun t f => Tab.put false t f (!Tab.look false t f)) x.sel }

/-- A station applies a step of a process (R115). -/
def applyStation (s : State) (pid : BitVec 16) (step i : Nat) : State :=
  let all := s.entriesOf i pid step
  let flips := (s.domain pid).flips
  let mine := ((all.filter fun e => e.code == 0).map fun e => e.frame).eraseDups.filter fun f => flips.contains f && homeOf f == i
  let m0 := s.gmem
  let was := all.map fun e =>
    let a := s.addrBefore pid i e.code e.frame e.shadow e.addr
    ({ pid := pid, step := step, addr := e.addr, val := m0.word a, p := (m0.line (a / 128)).p } : OldWord)
  let s := s.flipPages i mine
  let lines := renewed all fun e => s.currentAddr e.code e.frame e.shadow e.addr
  let s := { s with gmem := lines.foldl (fun (m : Mem) l => m.setLine l ⟨true, false⟩) s.gmem }
  let (s, _) := all.foldl (applyEntry m0 flips all i) (s, [])
  let s := s.touchTables ((all.filter writesWord).map fun e => s.currentAddr e.code e.frame e.shadow e.addr)
  s.updStation i fun x => { x with
    staging := x.staging.filter fun e => !(e.pid == pid && e.step == step)
    past := (x.past.filter fun w => !(w.pid == pid && decide (w.step + 32768 ≤ step))) ++ was }

/-- Held UNIQ stores of a step are written into their frames after the apply of the step before it (R110). -/
def writeHeld (s : State) (pid : BitVec 16) (step i : Nat) : State :=
  let l := s.entriesOf i pid step
  let at_ (e : Stage) : Nat := inFrame (!s.selBit (homeOf e.frame) e.frame) e.frame e.shadow e.addr
  let s := (l.foldl (fun (s : State) e =>
    match e.val with
    | .heldUniq v => if e.conflict then s else { s with gmem := s.gmem.setWord (at_ e) v }
    | _ => s) s).touchTables (l.map at_)
  s.updStation i fun x => { x with staging := x.staging.map fun e =>
    if e.pid = pid ∧ e.step = step then
      (match e.val with
       | .heldUniq _ => { e with val := .written }
       | _ => e)
    else e }

/-- The swapped pages of which a station homes words, but not the first frame, have been swapped by that frame's home. -/
def flipsFirst (s : State) (pid : BitVec 16) (step i : Nat) (flips : List Nat) : Bool :=
  let d := s.domain pid
  (s.entriesOf i pid step).all fun e => e.code != 0 || !flips.contains e.frame || homeOf e.frame == i
    || d.applied.contains (homeOf e.frame) || d.applying.contains (homeOf e.frame)

end State

/-- APPLY_SIGNAL: the apply signal of a process's step reaches a station, which applies the step; with the first one the
changes of the boundary take effect on the chip, and its tables are as written again (R93, R114, R115, R436). -/
def execApplySignal (pid : BitVec 16) (i : Nat) (s : State) : Out :=
  let d := s.domain pid
  if d.phase ≠ .apply ∨ 32 ≤ i ∨ d.applied.contains i ∨ d.applying.contains i then .next s
  else
    let step := (d.c + 1).toNat
    let s := if d.signalled then s else
      let s := s.applyChanges pid
      let flips := if d.abortNow then [] else s.fullPages pid step
      s.updDomain pid fun d => { d with signalled := true, flips := flips, loose := false }
    if !s.flipsFirst pid step i (s.domain pid).flips then .next s
    else
      let s := if d.abortNow then s else s.applyStation pid step i
      .next (s.updDomain pid fun d => { d with applying := d.applying ++ [i] })

end Sys2Proof.Machine
end

