-- ==== Sys2Proof/Machine/Operands.lean ====
section
/-! DEFINITION. Sys2Proof/Machine/Operands.lean: operands (R50, R51, R59) and the issue of an instruction: the order of
its checks (R234), the waits of R29, the seal before it (R33), its pops, its commit or its trap (R295). Every
instruction of the cores is a Plan run by issue. -/

namespace Sys2Proof.Machine

/-- What the body of an instruction answers: it commits, it traps after its pops, or it goes on waiting. -/
inductive Res
  | ok (s : State)
  | trap (s : State) (t : TrapInfo)
  | wait (s : State)

/-- An operand field: not used, a register name, a pair. -/
inductive Opd
  | none
  | r (x : Reg)
  | p (x : Pair)
  deriving DecidableEq, Repr

/-- The operand fields that an instruction reads, in the order of R59, the one it writes, and the registers that it
reads beside its fields. -/
structure Form where
  a : Opd := .none
  b : Opd := .none
  e : Opd := .none
  d : Opd := .none
  dst : Opd := .none
  also : List Reg := []
  deriving DecidableEq, Repr

/-- The values of the fields read: none while a field has none yet (a port before its pop, a register whose read
brought a fault). A register's value is the low word of its entry. -/
structure Vals where
  a : Option (Word × Word)
  b : Option (Word × Word)
  e : Option (Word × Word)
  d : Option (Word × Word)
  deriving DecidableEq, Repr

namespace Vals

/-- Low word of a. -/
def wa (v : Vals) : Word := (v.a.getD (0, 0)).1
/-- Low word of b. -/
def wb (v : Vals) : Word := (v.b.getD (0, 0)).1
/-- Low word of e. -/
def we (v : Vals) : Word := (v.e.getD (0, 0)).1
/-- Low word of d. -/
def wd (v : Vals) : Word := (v.d.getD (0, 0)).1
/-- Pair a, the low word in bits [31:0]. -/
def pa (v : Vals) : Pair64 := (v.a.getD (0, 0)).2 ++ (v.a.getD (0, 0)).1

end Vals

/-- The registers that a field names. -/
def Opd.regs : Opd → List Reg
  | .none => []
  | .r x => [x]
  | .p x => (pairRegs x).map .g

/-- The port that a field names. -/
def Opd.port : Opd → Option Dir
  | .r (.port d) => some d
  | _ => Option.none

/-- Every register that an instruction reads or writes. -/
def Form.named (f : Form) : List Reg := f.a.regs ++ f.b.regs ++ f.e.regs ++ f.d.regs ++ f.dst.regs ++ f.also

/-- The ports that an instruction pops, in order (R59). -/
def Form.pops (f : Form) : List Dir := [f.a, f.b, f.e, f.d].filterMap Opd.port

/-- The instruction names a port. -/
def Form.ports (f : Form) : Bool := !f.pops.isEmpty || f.dst.port.isSome

/-- The plan of an instruction: its fields, the checks of steps 4 and 5 of R234 (early), whether it ends the prefix
before its other checks, the checks of steps 7 to 10 (late), whether it ends the prefix after them, whether it finds the
send buffer full and so seals whatever the prefix (R30), whether it is ready, what the resolution leaves that a DEAD follows (R76),
whether the scalar checker covers it (R49), and what it does. -/
structure Plan where
  form : Form := {}
  early : State → Vals → Option TrapInfo := fun _ _ => Option.none
  sealsFirst : Bool := false
  late : State → Vals → Option TrapInfo := fun _ _ => Option.none
  seals : State → Vals → Bool := fun _ _ => false
  full : State → Bool := fun _ => false
  ready : State → Vals → Bool := fun _ _ => true
  looked : State → Vals → State := fun s _ => s
  checked : Bool := true
  body : State → Vals → Res

namespace State

/-- The remaining budget of an activation (R28). -/
def budgetLeft (s : State) (core c : Nat) : Nat :=
  match s.act core c with
  | none => 0
  | some a => a.deadline - s.now

/-- The value of a register name that is no port (R50). -/
def regVal (s : State) (core c : Nat) (r : Reg) : Word :=
  match r with
  | .g n => (s.ctx core c).g[n]
  | .lk => (s.ctx core c).lk
  | .cc => w32 (s.cycle core)
  | .bd => w32 (s.budgetLeft core c)
  | .zr => 0
  | .port _ => 0

/-- The two words of a pair (R51). -/
def pairVal (s : State) (core c : Nat) (p : Pair) : Word × Word :=
  match p with
  | .even k => (s.regVal core c (.g ⟨2 * k.val, by omega⟩), s.regVal core c (.g ⟨2 * k.val + 1, by omega⟩))
  | .zr => (0, 0)

/-- Registers of a context that await a result: of a global read, of the iterative unit, of the vector unit, of a load that has not
performed (R29, R129, R194, R319, R333). -/
def awaited (s : State) (core c : Nat) : List Reg :=
  ((s.act core c).elim [] fun a => (a.reads.filter fun m => m.fault.isNone).flatMap fun m => m.regs.map .g)
    ++ ((s.core core).iter.elim [] fun op => if op.ctx = c then [op.dst] else [])
    ++ (((s.core core).vq.filter fun e => e.ctx == c).flatMap fun e => vecRegs e.ins)
    ++ (s.ctx core c).lateLoads.map LateLoad.dst

/-- Reads of a context that brought a fault (R333). -/
def faulted (s : State) (core c : Nat) : List ReadMark :=
  (s.act core c).elim [] fun a => a.reads.filter fun m => m.fault.isSome

/-- The value of a field before any pop. -/
def peek (s : State) (core c : Nat) (bad : List Reg) (o : Opd) : Option (Word × Word) :=
  match o with
  | .none => some (0, 0)
  | .r (.port _) => Option.none
  | .r x => if bad.contains x then Option.none else some (s.regVal core c x, 0)
  | .p x => if (Opd.p x).regs.any bad.contains then Option.none else some (s.pairVal core c x)

/-- The values of the fields before any pop. -/
def peeks (s : State) (core c : Nat) (bad : List Reg) (f : Form) : Vals :=
  ⟨s.peek core c bad f.a, s.peek core c bad f.b, s.peek core c bad f.e, s.peek core c bad f.d⟩

/-- The value of a field at issue: a port pops, and the popped word is kept for the record (R59). -/
def take (s : State) (core c : Nat) (o : Opd) : (Word × Word) × State :=
  match o with
  | .none => ((0, 0), s)
  | .r (.port d) =>
    let (w, s) := s.popPort core c d
    ((w, 0), { s with cur := { s.cur with popped := s.cur.popped ++ [w] } })
  | .r x => ((s.regVal core c x, 0), s)
  | .p x => (s.pairVal core c x, s)

/-- The fields are read in the order a, b, e, d (R59). -/
def takes (s : State) (core c : Nat) (f : Form) : Vals × State :=
  let (a, s) := s.take core c f.a
  let (b, s) := s.take core c f.b
  let (e, s) := s.take core c f.e
  let (d, s) := s.take core c f.d
  (⟨some a, some b, some e, some d⟩, s)

/-- Words in an inbound queue. -/
def inCount (s : State) (core c : Nat) (d : Dir) : Nat := ((s.ctx core c).inq[d.idx]).length

/-- The PORT trap of the first pop, or of the push, that meets a closed link (R60). -/
def closedPort (s : State) (core c : Nat) (f : Form) : Option TrapInfo :=
  let bad := f.pops.find? fun d => decide (s.inCount core c d < f.pops.count d) && s.linkClosed core d
  match bad with
  | some d => some ⟨5, w32 (Reg.port d).number, 0⟩
  | none =>
    match f.dst.port with
    | some d => if s.linkClosed core d then some ⟨5, w32 (Reg.port d).number, 0⟩ else none
    | none => none

/-- Every pop can be satisfied and the push has room (R58, R59). -/
def portsReady (s : State) (core c : Nat) (f : Form) : Bool :=
  (f.pops.all fun d => decide (f.pops.count d ≤ s.inCount core c d)) &&
    (f.dst.port.elim true fun d => decide ((s.ctx core c).outq[d.idx] < 4))

/-- The core has issued from the context of the cursor (R45). -/
def issued (s : State) : State :=
  s.updCore s.cur.core fun k => { k with last := s.cur.ctx, issuedAt := some s.now }

/-- The instruction raises a cause: TAKING the trap, in the model's answer. -/
def raise (s : State) (t : TrapInfo) : Out :=
  .next (s.issued.trap s.cur.core s.cur.ctx t s.cur.pc s.cur.pc s.cur.popped)

/-- The instruction raises the delayed cause of a global read (R233, R333). -/
def raiseLate (s : State) (m : ReadMark) : Out :=
  match m.fault with
  | none => .next s
  | some t => .next (s.issued.trap s.cur.core s.cur.ctx t s.cur.pc m.orig [])

/-- The instruction commits: the PC moves to its successor, or to where a jump has set it. -/
def commit (s : State) : State := s.issued.updAct s.cur.core s.cur.ctx fun a => { a with pc := s.cur.next }

/-- Set where the PC goes. -/
def jump (s : State) (target : Nat) : State := { s with cur := { s.cur with next := target } }

/-- Write a register name of the issuing context. -/
def write (s : State) (r : Reg) (v : Word) : State := s.writeReg s.cur.core s.cur.ctx r v

/-- Write a pair of the issuing context, low word first. -/
def writePair (s : State) (p : Pair) (lo hi : Word) : State := s.updCtx s.cur.core s.cur.ctx fun x => x.setPair p lo hi

/-- OR flags into FFLAGS of the issuing context (R159). -/
def addFlags (s : State) (f : Flags) : State := s.updCtx s.cur.core s.cur.ctx fun x => x.addFlags f

end State

/-- A send that still finds 16 entries, its checks passed, seals before its entry takes its place (R30, R33). -/
def makeRoom (pl : Plan) (s : State) : State := if pl.full s then s.sealPrefix s.cur.core s.cur.ctx else s

/-- The body runs and the instruction commits or traps. -/
def runBody (pl : Plan) (s : State) (v : Vals) : Out :=
  match pl.body (makeRoom pl s) v with
  | .ok s => .next s.commit
  | .trap s t => s.raise t
  | .wait s => .next s

/-- The budget of the issuing activation has run out (R28). -/
def expired (s : State) : Bool := (s.act s.cur.core s.cur.ctx).elim false fun a => decide (a.deadline ≤ s.now)

/-- BUDGET for the issuing activation (R28, R232). -/
def budgetTrap (s : State) : TrapInfo := ⟨6, 0, w32 ((s.act s.cur.core s.cur.ctx).elim 0 Act.loaded)⟩

/-- The core retires when its counts ask for it (R245). -/
def retireAfter (core : Nat) : Out → Out
  | .next s => .next (s.checkRetire core)
  | o => o

/-- The checker stage (R49, R234), which the vector unit has of its own: one mismatch costs 6 cycles and reissues the instruction, a second raises CHK, unless the
instruction raises a cause of an earlier step. -/
def checkStage (pl : Plan) (s : State) (v : Vals) : Out :=
  let core := s.cur.core
  let n := (s.core core).mism
  if n = 0 || !pl.checked then runBody pl s v
  else
    match pl.body s v with
    | .wait t => .next t
    | .trap t i => t.raise i
    | .ok _ =>
      let s := s.updCore core fun k => { k with mism := n - min n 2 }
      if n = 1 then
        let s := { s.countChk core with now := s.now + 6 }
        if expired s then retireAfter core (s.raise (budgetTrap s))
        else
          retireAfter core (runBody pl s v)
      else ((s.countChk core).countChk core).raise ⟨7, s.cur.ip.setWidth 32, 0⟩

/-- An issue check raises a cause; a DEAD follows a resolution, which has read the tables (R76, R92). -/
def raiseCheck (pl : Plan) (s : State) (v : Vals) (t : TrapInfo) : Out := (if t.cause = 17 then pl.looked s v else s).raise t

/-- The pops, and the checks that need a popped word (R59). -/
def issuePops (pl : Plan) (s : State) : Out :=
  let (v, s) := s.takes s.cur.core s.cur.ctx pl.form
  match (pl.early s v).or (pl.late s v) with
  | some t => raiseCheck pl s v t
  | none => checkStage pl s v

/-- A port write, and a send that seals, make a release: they wait for the earlier vector memory instructions of their
context (R130, R139). -/
def pushWaits (pl : Plan) (s : State) : Bool :=
  (pl.form.dst.port.isSome || pl.full s) && s.releaseWaits s.cur.core s.cur.ctx

/-- The waits for resources and ports. -/
def issueWait (pl : Plan) (s : State) (v : Vals) : Out :=
  if pl.ready s v && s.portsReady s.cur.core s.cur.ctx pl.form && !pushWaits pl s then issuePops pl s else .next s

/-- The seal that an instruction makes before it issues, while the prefix lasts (R33); while the release must wait the
instruction waits, and while a pending STEP waits it is blocked (R96). -/
def sealThen (s : State) (k : State → Out) : Out :=
  let core := s.cur.core
  let c := s.cur.ctx
  if s.isOpen core c then
    if s.releaseWaits core c then .next s
    else
      let s := s.sealPrefix core c
      if s.stepBlocked core c then .next s else k s
  else k s

/-- The step of R234 at which a reply's cause is raised: XLAT and CAPAB at 6, DEAD at 7, UE at 12. -/
def ReadMark.place (m : ReadMark) : Nat :=
  match m.fault with
  | none => 13
  | some t => if t.cause = 17 then 7 else if t.cause = 8 then 12 else 6

/-- The delayed cause that is raised up to a step of R234: the one of the first step, of two the older read's. -/
def delayed (marks : List ReadMark) (upTo : Nat) : Option ReadMark :=
  ([6, 7, 12].filter fun n => decide (n ≤ upTo)).findSome? fun n => marks.find? fun m => m.place == n

/-- The checks of steps 7 to 12 of R234, and the seal after them. marks: the reads with a fault whose registers the instruction
names. -/
def issueLate (pl : Plan) (marks : List ReadMark) (s : State) (v : Vals) : Out :=
  let t := pl.late s v
  match t.filter fun t => t.cause == 17, delayed marks 7 with
  | some t, _ => raiseCheck pl s v t
  | none, some m => s.raiseLate m
  | none, none =>
    match t.or (s.closedPort s.cur.core s.cur.ctx pl.form), delayed marks 12 with
    | some t, _ => s.raise t
    | none, some m => s.raiseLate m
    | none, none =>
      if pl.seals s v || pl.form.ports || (pl.full s && pl.form.pops.isEmpty) then sealThen s fun s => issueWait pl s v
      else issueWait pl s v

/-- The checks of steps 4 to 6 of R234. What seals before its other checks has read its operands by then, so that it meets every
delayed cause before the seal (R356). -/
def issueChecks (pl : Plan) (s : State) : Out :=
  let core := s.cur.core
  let c := s.cur.ctx
  let bad := s.faulted core c
  let v := s.peeks core c (bad.flatMap fun m => m.regs.map .g) pl.form
  let marks := bad.filter fun m => m.regs.any fun r => pl.form.named.contains (.g r)
  match pl.early s v with
  | some t => s.raise t
  | none =>
    match delayed marks (if pl.sealsFirst then 12 else 6) with
    | some m => s.raiseLate m
    | none => if pl.sealsFirst then sealThen s fun s => issueLate pl [] s v else issueLate pl marks s v

/-- THE ISSUE OF AN INSTRUCTION of the cores, on the context of the cursor. An instruction that names a register which awaits a
result waits for it before its checks, and so before the seal of R33 (assumption 78). -/
def issue (pl : Plan) (s : State) : Out :=
  let core := s.cur.core
  let c := s.cur.ctx
  match s.act core c with
  | none => .fault .notRunning
  | some _ =>
    if s.stepBlocked core c then .next (s.proceed core c)
    else if (s.awaited core c).any pl.form.named.contains || s.streaming core c then .next s
    else issueChecks pl s

end Sys2Proof.Machine
end

