-- ==== Sys2Proof/Machine/Control.lean ====
section
/-! DEFINITION. Sys2Proof/Machine/Control.lean: NOP, branches and jumps (R307 to R309, R336, R358), END and SEAL
(R321, R370), GETH (R331), TRAP and BRK (R310, R391), FENCE (R132, R330). -/

namespace Sys2Proof.Machine

/-- INFO words of ILL and PRIV: the instruction parcel and the first prefix parcel (R232). -/
def illTrap (s : State) : TrapInfo := ⟨1, s.cur.ip.setWidth 32, s.cur.first.setWidth 32⟩

/-- ILL under a condition. -/
def illIf (s : State) (c : Bool) : Option TrapInfo := if c then some (illTrap s) else none

/-- PRIV from contexts 1 to 6, with INFO1 (R62, R232, R275). -/
def privTrap (s : State) (info1 : Word) : Option TrapInfo :=
  if s.cur.ctx = 7 then none else some ⟨2, s.cur.ip.setWidth 32, info1⟩

/-- The plan of a privileged instruction: PRIV comes before every check of a value (R234, R275). -/
def privileged (pl : Plan) : Plan := { pl with early := fun s v => (privTrap s 0).or (pl.early s v) }

/-- A parcel index lies outside the code store (R308). -/
def outside (t : Int) : Bool := decide (t < 0 ∨ 65535 < t)

/-- Where a relative branch goes (R308). -/
def branchTarget (s : State) (off : Int) : Int := (s.cur.pc : Int) + off

/-- NOP (R358). -/
def execNop (s : State) : Out := issue { body := fun s _ => .ok s } s

/-- BR (R307, R308). -/
def execBr (off : Int) (s : State) : Out :=
  issue { early := fun s _ => illIf s (outside (branchTarget s off)),
          body := fun s _ => .ok (s.jump (branchTarget s off).toNat) } s

/-- CALL leaves the parcel index of its successor in lk (R308). -/
def execCall (off : Int) (s : State) : Out :=
  issue { form := { dst := .r .lk },
          early := fun s _ => illIf s (outside (branchTarget s off)),
          body := fun s _ => .ok ((s.write .lk (w32 s.cur.next)).jump (branchTarget s off).toNat) } s

/-- JR: bits [31:16] of the target must be 0 (R336). -/
def execJr (a : Reg) (s : State) : Out :=
  issue { form := { a := .r a },
          early := fun s v => illIf s (v.wa.extractLsb' 16 16 != 0),
          body := fun s v => .ok (s.jump (v.wa.extractLsb' 0 16).toNat) } s

/-- JALR writes lk after the target is read (R336). -/
def execJalr (a : Reg) (s : State) : Out :=
  issue { form := { a := .r a, dst := .r .lk },
          early := fun s v => illIf s (v.wa.extractLsb' 16 16 != 0),
          body := fun s v => .ok ((s.write .lk (w32 s.cur.next)).jump (v.wa.extractLsb' 0 16).toNat) } s

/-- The plan of BZ and BNZ: taken when the test of d holds (R308). A taken target outside the code store raises ILL. -/
def branchIf (test : Word → Bool) (d : Reg) (off : Int) : Plan where
  form := { d := .r d }
  early := fun s v => illIf s (v.d.isSome && test v.wd && outside (branchTarget s off))
  body := fun s v => .ok (if test v.wd then s.jump (branchTarget s off).toNat else s)

/-- BZ (R308). -/
def execBz (d : Reg) (off : Int) (s : State) : Out := issue (branchIf (fun x => x == 0) d off) s
/-- BNZ (R308). -/
def execBnz (d : Reg) (off : Int) (s : State) : Out := issue (branchIf (fun x => x != 0) d off) s

/-- No reply of a global read of the activation is outstanding, and the vector queue holds nothing of the context
(R321, R351). -/
def endReady (s : State) : Bool :=
  let core := s.cur.core
  let c := s.cur.ctx
  ((s.act core c).elim true fun a => a.reads.all fun m => m.fault.isSome) &&
    (s.core core).vq.all fun e => e.ctx != c

/-- The issue of END or MIGR: it waits for the replies, raises the delayed cause of a reply, and goes on while pending
STEPs remain (R321, R322, R351). Of several replies it takes the cause that comes first in R234. checks: what comes before a
delayed cause (R351). -/
def issueEnd (pl : Plan) (checks : State → Option TrapInfo) (s : State) : Out :=
  let core := s.cur.core
  let c := s.cur.ctx
  match s.act core c with
  | none => .fault .notRunning
  | some a =>
    if s.stepBlocked core c then .next (s.proceed core c)
    else if !endReady s then .next s
    else
      match checks s with
      | some t => s.raise t
      | none =>
        match delayed a.reads 12 with
        | some m => s.raiseLate m
        | none => issue pl s

/-- END (R321). -/
def execEndAct (s : State) : Out :=
  issueEnd { body := fun s _ => .ok ((s.endFrom s.cur.core s.cur.ctx).jump s.cur.pc) } (fun _ => none) s

/-- SEAL issues at once; its release waits as R130 and R139 give (R370, R371). -/
def execSeal (s : State) : Out := issue { body := fun s _ => .ok (s.sealLater s.cur.core s.cur.ctx) } s

/-- GETH writes header word k of the trigger (R331). -/
def execGeth (d : Reg) (k : Fin 8) (s : State) : Out :=
  issue { form := { dst := .r d },
          body := fun s _ =>
            match s.act s.cur.core s.cur.ctx with
            | none => .ok s
            | some a => .ok (s.write d (a.trig.header k)) } s

/-- TRAP raises SWT (R391). -/
def execTrap (code : Int) (s : State) : Out := issue { body := fun s _ => .trap s ⟨15, wInt code, 0⟩ } s
/-- BRK raises BRK (R310). -/
def execBrk (code : Int) (s : State) : Out := issue { body := fun s _ => .trap s ⟨16, wInt code, 0⟩ } s

/-- The local release and acquire of FENCE (R130, R132). -/
def fence (s : State) : State := (s.flush s.cur.core s.cur.ctx).acquire s.cur.core s.cur.ctx

/-- FENCE 0 orders the local accesses of the context: it waits until its earlier vector memory instructions and streams
have performed (R130, R132). -/
def execFence0 (s : State) : Out :=
  issue { ready := fun s _ => !s.releaseWaits s.cur.core s.cur.ctx, body := fun s _ => .ok (fence s) } s

/-- FENCE 1 also waits for every far store that the context has issued to be accepted, the requests that the copy engine has
made of its CPFST commands among them (R101, R132, R330). -/
def execFence1 (s : State) : Out :=
  issue { ready := fun s _ => !s.releaseWaits s.cur.core s.cur.ctx &&
            s.pending.all fun p => !(p.core == s.cur.core && p.ctx == s.cur.ctx),
          body := fun s _ => .ok (fence s) } s

end Sys2Proof.Machine
end

