-- ==== Sys2Proof/Machine/Send.lean ====
section
/-! DEFINITION. Sys2Proof/Machine/Send.lean: the sending instructions: SEND, SENDM, SVSEND (R374 to R377), REPLY (R366),
MIGR (R350 to R352), LAUNCH (R218, R337), the owner atomics (R300 to R302), TDEC and TSET (R388, R389). -/

namespace Sys2Proof.Machine

/-- The payload registers g8 to g(8 + n - 1). -/
def payRegs (n : Fin 9) : List Reg := (List.range n.val).map fun i => .g (Fin.ofNat 16 (8 + i))

/-- The reply handler word of an e field: none when it names zr or is absent (R301). -/
def replyWord (e : Reg) (v : Vals) : Option Word := if e = .zr then none else some v.we

/-- A handler word that is at hand has bit [31] = 1 (R15). -/
def badHandler (o : Option (Word × Word)) : Bool := o.elim false fun w => w.1.getLsbD 31

/-- An endpoint pair that is at hand has nonzero reserved bits (R89). -/
def badEndpoint (o : Option (Word × Word)) : Bool :=
  o.elim false fun w => w.1.extractLsb' 16 16 != 0 || w.2.extractLsb' 22 10 != 0

/-- A group pair that is at hand has nonzero reserved bits (R375). -/
def badGroup (o : Option (Word × Word)) : Bool := o.elim false fun w => w.1.extractLsb' 12 20 != 0 || w.2 != 0

/-- DEAD, with the endpoint's two words (R232). -/
def deadTrap (e : Word × Word) : TrapInfo := ⟨17, e.1, e.2⟩

namespace State

/-- Put an entry into the send buffer of the issuing context (R30). -/
def buffer (s : State) (b : Buffered) : State :=
  s.updCtx s.cur.core s.cur.ctx fun x => { x with sbuf := x.sbuf ++ [b] }

/-- Entries that the issuing context's buffer holds, those of releases that wait among them (R30, R188). -/
def buffered (s : State) : Nat :=
  let x := s.ctx s.cur.core s.cur.ctx
  x.handing.length + x.waiting.flatten.length + x.sbuf.length

/-- The send buffer of the issuing context holds 16 entries. -/
def bufferFull (s : State) : Bool := decide (16 ≤ s.buffered)

/-- The send buffer has a place, or a release gives it one (R30, R188). -/
def bufferRoom (s : State) : Bool :=
  !s.bufferFull || !(s.sealPrefix s.cur.core s.cur.ctx).bufferFull

/-- The trigger of the issuing activation is an answer (R38). -/
def fromAnswer (s : State) : Bool := (s.act s.cur.core s.cur.ctx).elim false fun a => a.trig.ans

/-- The low 16 bits of the core's current step (R17). -/
def stepTag (s : State) (core : Nat) : BitVec 16 := (s.core core).s.extractLsb' 0 16

/-- The logical core and rank that an endpoint pair names; 0xFFFE stands for SVEP and SVEPH (R90). -/
def endpointName (s : State) (e : Word × Word) : BitVec 16 × BitVec 22 :=
  let k := s.core s.cur.core
  if e.1.extractLsb' 0 16 = 0xFFFE then (k.svcore, k.svchip) else (e.1.extractLsb' 0 16, e.2.extractLsb' 0 22)

/-- What the cache of the issuing core's cluster holds for an endpoint of its PID (R93); nothing while the PID's tables are loose. -/
def cached (s : State) (l : BitVec 16) (r : BitVec 22) : Option Resolved :=
  let pid := (s.core s.cur.core).pid
  if (s.domain pid).loose then none
  else ((s.cluster (clusterOf s.cur.core)).cache.find? fun x => x.pid == pid && x.lcore == l && x.rank == r).map Cached.res

/-- The endpoint of a pair resolved for the issuing core (R90, R92), from its cluster's cache or from the tables (R93), and SV. An SVEP
of LCORE 0xFFFF, which would name the distributor, resolves to nothing (assumption 63). -/
def endpoint (s : State) (e : Word × Word) : Resolved × Bool :=
  let sv := e.1.extractLsb' 0 16 == 0xFFFE
  let (l, r) := s.endpointName e
  (if sv && l == 0xFFFF then .dead else (s.cached l r).getD (s.resolve (s.core s.cur.core).pid l r), sv)

/-- An entry joins a cluster's endpoint cache: of more than 256 the oldest goes (R93, assumption 29). -/
def cacheEndpoint (s : State) (cl : Nat) (x : Cached) : State :=
  s.updCluster cl fun y => { y with cache := (y.cache ++ [x]).drop (y.cache.length - 255) }

/-- The issuing core resolves an endpoint (R93). A hit in the cache reads no table; a miss reads them, and its words are checked
(R76); the result is kept, and the context is not ready for 60 cycles. -/
def noteEndpoint (s : State) (e : Word × Word) : State :=
  let (l, r) := s.endpointName e
  let core := s.cur.core
  let pid := (s.core core).pid
  if (s.cached l r).isSome || (e.1.extractLsb' 0 16 == 0xFFFE && l == 0xFFFF) then s
  else
    let loose := (s.domain pid).loose
    let (s, res) := s.lookUp pid (s.stepTag core) l r
    let s := if loose || res == .dead then s else s.cacheEndpoint (clusterOf core) ⟨pid, l, r, res⟩
    s.updCtx core s.cur.ctx fun x => { x with busy := s.now + 60 }

/-- What the resolution of an endpoint leaves that ends in DEAD: the checks of the table words; where the distributor is no target none
is read. -/
def noteDead (s : State) (noDist : Bool) (o : Option (Word × Word)) : State :=
  match o with
  | none => s
  | some e => if noDist && e.1.extractLsb' 0 16 == 0xFFFF then s else s.noteEndpoint e

/-- DEAD for an endpoint that does not resolve, or for the distributor where it is no target (R89, R90). -/
def endpointDead (s : State) (noDist : Bool) (o : Option (Word × Word)) : Option TrapInfo :=
  match o with
  | none => none
  | some e =>
    if noDist && e.1.extractLsb' 0 16 == 0xFFFF then some (deadTrap e)
    else if (s.endpoint e).1 == .dead then some (deadTrap e) else none

/-- A message of the issuing context without its destination (R15, R17). -/
def message (s : State) (kind : Nat) (body : List Word) : Msg :=
  let k := s.core s.cur.core
  { Msg.blank with score := k.lcore, sctx := BitVec.ofNat 3 s.cur.ctx, schip := k.rank, pid := k.pid,
                   stag := s.stepTag s.cur.core, nw := BitVec.ofNat 5 body.length, kind := BitVec.ofNat 4 kind,
                   body := body }

/-- The payload g8 to g(8 + n - 1) in the cycle of issue. -/
def payload (s : State) (n : Fin 9) : List Word := (payRegs n).map fun r => s.regVal s.cur.core s.cur.ctx r

/-- Who issues a command (R30, R437). -/
def issuer (s : State) : Issuer :=
  let k := s.core s.cur.core
  ⟨s.cur.core, s.cur.ctx, k.lcore, k.rank, k.pid, k.pkey, s.stepTag s.cur.core⟩

/-- A message to the endpoint of a pair enters the send buffer. -/
def bufferTo (s : State) (e : Word × Word) (m : Msg) : State :=
  let (r, sv) := s.endpoint e
  (s.noteEndpoint e).buffer (.msg { (m.to s.chip r) with sv := sv })

end State

/-- ANS for a call out of an answer's activation (R38, R375). -/
def ansTrap (s : State) (v : Vals) : Option TrapInfo :=
  if s.fromAnswer && v.a.isSome && !v.wa.getLsbD 22 then some ⟨13, v.wa, 0⟩ else none

/-- The plan of an instruction that takes a send-buffer entry. -/
def sendPlan (f : Form) (early late : State → Vals → Option TrapInfo) (body : State → Vals → State) : Plan where
  form := f
  early := early
  late := late
  full := State.bufferFull
  ready := fun s _ => s.bufferRoom
  body := fun s v => .ok (body s v)

/-- The same for one whose endpoint is resolved at issue; looked: what a resolution that ends in DEAD leaves. -/
def sendLooked (looked : State → Vals → State) (f : Form) (early late : State → Vals → Option TrapInfo)
    (body : State → Vals → State) : Plan :=
  { sendPlan f early late body with looked := looked }

/-- SEND and SVSEND (R375): kind 0 or 4; SVSEND never reaches a distributor. -/
def sendTo (kind : Nat) (noDist : Bool) (d : Pair) (a : Reg) (n : Fin 9) : Plan :=
  sendLooked (fun s v => s.noteDead noDist v.d) { a := .r a, d := .p d, also := payRegs n }
    (fun s v => (illIf s (badHandler v.a || badEndpoint v.d)).or (ansTrap s v))
    (fun s v => s.endpointDead noDist v.d)
    (fun s v => s.bufferTo (v.d.getD (0, 0)) ((s.message kind (s.payload n)).withHandler v.wa))

/-- SEND (R374 to R376). -/
def execSend (d : Pair) (a : Reg) (n : Fin 9) (s : State) : Out := issue (sendTo 0 false d a n) s
/-- SVSEND, privileged: a supervisor notice of KIND 4 (R374 to R376). -/
def execSvsend (d : Pair) (a : Reg) (n : Fin 9) (s : State) : Out := issue (privileged (sendTo 4 true d a n)) s

/-- SENDM is resolved member by member when the release hands it on (R375, R376). -/
def execSendm (d : Pair) (a : Reg) (n : Fin 9) (s : State) : Out :=
  issue (sendPlan { a := .r a, d := .p d, also := payRegs n }
    (fun s v => (illIf s (badHandler v.a || badGroup v.d)).or (ansTrap s v))
    (fun s v => match v.d with
      | none => none
      | some g => if s.groupValid (s.core s.cur.core).pid (g.1.extractLsb' 0 12).toNat then none else some (deadTrap g))
    (fun s v => s.buffer (.multicast (v.wd.extractLsb' 0 12).toNat
      ((s.message 0 (s.payload n)).withHandler v.wa)))) s

/-- The sender of the trigger, as an endpoint (R366). -/
def triggerSender (s : State) : Word × Word :=
  match s.act s.cur.core s.cur.ctx with
  | none => (0, 0)
  | some a => ((0 : BitVec 16) ++ a.trig.score, (0 : BitVec 10) ++ a.trig.schip)

/-- REPLY: an answer to the sender of the trigger (R366, R367). -/
def execReply (a : Reg) (n : Fin 9) (s : State) : Out :=
  issue (sendLooked (fun s _ => s.noteDead true (some (triggerSender s))) { a := .r a, also := payRegs n }
    (fun s v => illIf s (badHandler v.a))
    (fun s _ => s.endpointDead true (some (triggerSender s)))
    (fun s v => s.bufferTo (triggerSender s)
      { ((s.message 0 (s.payload n)).withHandler v.wa) with ans := true })) s

/-- The payload of a continuation: g0 to g15, the pointer addresses, lk, the flags (R40). -/
def Ctx.continuation (x : Ctx) : List Word := x.g.toList ++ x.pa.toList ++ [x.lk, x.fflags.setWidth 32]

/-- The checks of MIGR that come before a delayed cause (R351). -/
def migrEarly (s : State) (v : Vals) : Option TrapInfo := (illIf s (badHandler v.a || badEndpoint v.d)).or (ansTrap s v)

/-- MIGR: the continuation is handed on after the last entry of the release (R350 to R352). -/
def execMigr (d : Pair) (a : Reg) (s : State) : Out :=
  let form : Form := { a := .r a, d := .p d, also := (List.finRange 16).map .g ++ [.lk] }
  let bad := (s.faulted s.cur.core s.cur.ctx).flatMap fun m => m.regs.map Reg.g
  issueEnd
    { form := form,
      early := migrEarly,
      late := fun s v => s.endpointDead true v.d,
      looked := fun s v => s.noteDead true v.d,
      ready := fun s _ => (s.core s.cur.core).iter.elim true fun op => op.ctx != s.cur.ctx,
      body := fun s v =>
        let m := (s.message 1 (s.ctx s.cur.core s.cur.ctx).continuation).withHandler v.wa
        .ok (((s.bufferTo (v.d.getD (0, 0)) m).endFrom s.cur.core s.cur.ctx).jump s.cur.pc) }
    (fun s => migrEarly s (s.peeks s.cur.core s.cur.ctx bad form)) s

/-- LAUNCH: a KIND 5 call to the distributor of a rank (R218, R337). -/
def execLaunch (d : Pair) (a e : Reg) (s : State) : Out :=
  let ep (v : Vals) : Word × Word := (0xFFFF, v.wa)
  issue (sendLooked (fun s v => s.noteDead false (some (ep v))) { a := .r a, e := .r e, d := .p d }
    (fun s v => illIf s ((v.a.isSome && badEndpoint (some (ep v))) || badHandler v.e))
    (fun s v =>
      let lo := v.wd
      let hi := (v.d.getD (0, 0)).2
      (if v.a.isSome then s.endpointDead false (some (ep v)) else none).or
        (if hi.extractLsb' 21 11 ≠ 0 then some ⟨9, lo, hi⟩
         else if lo.toNat % 128 ≠ 0 then some ⟨4, lo, hi⟩ else none))
    (fun s v => s.bufferTo (ep v)
      (s.message 5 [v.wd, (v.d.getD (0, 0)).2, (replyWord e v).getD 0x8000_0000]))) s

/-! ## Commands to a service thread -/

/-- The command of an owner atomic (R302). -/
def atomicMsg (s : State) (op : Nat) (addr v c : Word) (hw : Option Word) : Msg :=
  { s.message 2 [w32 op, addr, v, c, hw.getD 0x8000_0000] with ans := s.fromAnswer }

/-- The plan of an owner atomic (R300, R301); val: the operands v and c. -/
def ownerAtomic (op : Nat) (d : Pair) (a : Reg) (b : Opd) (e : Reg) (val : Vals → Word × Word) : Plan :=
  sendLooked (fun s v => s.noteDead true v.d) { a := .r a, b := b, e := .r e, d := .p d }
    (fun s v => illIf s (badEndpoint v.d || badHandler v.e))
    (fun s v => (s.endpointDead true v.d).or (if v.wa.toNat % 4 ≠ 0 then some ⟨4, v.wa, 0⟩ else none))
    (fun s v => s.bufferTo (v.d.getD (0, 0)) (atomicMsg s op v.wa (val v).1 (val v).2 (replyWord e v)))

/-- The operands of the owner atomics other than AMCAS: v from b, c = 0. -/
def amVal (v : Vals) : Word × Word := (v.wb, 0)

/-- AMADD (R300). -/
def execAmadd (d : Pair) (a b e : Reg) (s : State) : Out := issue (ownerAtomic 0x18 d a (.r b) e amVal) s
/-- AMSWP (R300). -/
def execAmswp (d : Pair) (a b e : Reg) (s : State) : Out := issue (ownerAtomic 0x19 d a (.r b) e amVal) s
/-- AMCAS: b holds the pair (c, v) (R300). -/
def execAmcas (d : Pair) (a : Reg) (b : Pair) (e : Reg) (s : State) : Out :=
  issue (ownerAtomic 0x1A d a (.p b) e fun v => ((v.b.getD (0, 0)).2, v.wb)) s
/-- AMMAX (R300). -/
def execAmmax (d : Pair) (a b e : Reg) (s : State) : Out := issue (ownerAtomic 0x1B d a (.r b) e amVal) s
/-- AMMIN (R300). -/
def execAmmin (d : Pair) (a b e : Reg) (s : State) : Out := issue (ownerAtomic 0x1C d a (.r b) e amVal) s
/-- AMOR (R300). -/
def execAmor (d : Pair) (a b e : Reg) (s : State) : Out := issue (ownerAtomic 0x1D d a (.r b) e amVal) s
/-- AMAND (R300). -/
def execAmand (d : Pair) (a b e : Reg) (s : State) : Out := issue (ownerAtomic 0x1E d a (.r b) e amVal) s

/-- TDEC: a KIND 3 message with the record address and the decrement (R388). -/
def execTdec (d : Pair) (a b : Reg) (s : State) : Out :=
  issue (sendLooked (fun s v => s.noteDead true v.d) { a := .r a, b := .r b, d := .p d }
    (fun s v => illIf s (badEndpoint v.d || (v.b.isSome && v.wb == 0)))
    (fun s v => s.endpointDead true v.d)
    (fun s v => s.bufferTo (v.d.getD (0, 0)) { s.message 3 [v.wa, v.wb] with ans := s.fromAnswer })) s

/-- The word addresses of a task record. -/
def recordWords (addr : Nat) : List Nat := (List.range 12).map fun i => addr + 4 * i

/-- TSET writes a task record (R41, R389). In a late turn its words are written afterwards; until then the context is not ready, nor
is the service thread of its core. -/
def execTset (d a : Reg) (n : Fin 9) (e : Reg) (s : State) : Out :=
  issue { form := { a := .r a, e := .r e, d := .r d, also := payRegs n },
          early := fun s v => illIf s (badHandler v.a),
          late := fun _ v =>
            if v.wd.toNat % 16 ≠ 0 then some ⟨4, v.wd, 0⟩
            else if 0x5FD0 < v.wd.toNat then some ⟨3, v.wd, 0⟩ else none,
          seals := fun s v => s.wordsFull s.cur.core s.cur.ctx (recordWords v.wd.toNat),
          body := fun s v =>
            let core := s.cur.core
            let ws := ([v.we, v.wa, w32 n.val, 0] ++ s.payload n ++ List.replicate 8 0).take 12
            .ok (((recordWords v.wd.toNat).zip ws).foldl (fun (s : State) x =>
              s.storeScalar core s.cur.ctx x.1 4 x.2 .record s.cur.late) (s.awaitTcm core s.cur.ctx v.wd.toNat)) } s

end Sys2Proof.Machine
end

