-- ==== Sys2Proof/Machine/Matrix.lean ====
section
/-! DEFINITION. Sys2Proof/Machine/Matrix.lean: operand descriptors (R176 to R178), the words of the matrix commands and
their issue checks (R179 to R187), their issue (R353, R354) and MXQRY (R175, R355). -/

namespace Sys2Proof.Machine

/-- A field of a word: n bits from bit i, as a number. -/
def fld (w : Word) (i n : Nat) : Nat := w.toNat / 2 ^ i % 2 ^ n

/-! ## Descriptors (R176 to R178) -/

/-- An operand descriptor. -/
structure Descr where
  off : Nat
  rpitch : Nat
  ppitch : Nat
  rot : Nat

/-- The descriptor of a pair of words. -/
def descr (w0 w1 : Word) : Descr := ⟨fld w0 0 19, fld w1 0 12, fld w1 12 12, fld w1 24 3⟩

/-- The issue checks of a descriptor that need no extent (R176). -/
def descrBad (w0 w1 : Word) : Bool :=
  let g := descr w0 w1
  fld w0 19 13 != 0 || fld w1 27 5 != 0 || g.off % 128 != 0 || (g.rot != 0 && g.rpitch % 8 != 0)

/-- The bit address of stored element (r, c) of panel p, before rotation (R177). -/
def Descr.bit (g : Descr) (w p r c : Nat) : Nat := 8 * (g.off + p * g.ppitch * 128 + r * g.rpitch * 16) + c * w

/-- The byte above the last byte of rows × cols elements of panel p. -/
def Descr.above (g : Descr) (w p rows cols : Nat) : Nat := (g.bit w p (rows - 1) cols + 7) / 8

/-- The scratchpad ends at this offset. -/
def spadBytes : Nat := 0x80000

/-! ## Words of the commands -/

/-- Tile field. -/
def wTile (w : Word) : Nat := fld w 0 3
/-- OTYPE of a drain or load word (R184). -/
def wOtype (w : Word) : Nat := fld w 3 4
/-- ACT. -/
def wAct (w : Word) : Nat := fld w 7 2
/-- SCALE, signed. -/
def wScale (w : Word) : Int := signed 8 (fld w 9 8)
/-- FIRST. -/
def wFirst (w : Word) : Nat := fld w 17 6
/-- RM1 + 1, the row count. -/
def wRows (w : Word) : Nat := fld w 23 6 + 1
/-- PEER. -/
def wPeer (w : Word) : Nat := fld w 29 3
/-- K of a command word (R181). -/
def wK (w : Word) : Nat := 16 * (fld w 3 10 + 1)
/-- ITYPE of a command word. -/
def wItype (w : Word) : Nat := fld w 13 4
/-- ACC. -/
def wAcc (w : Word) : Bool := w.getLsbD 17
/-- TA. -/
def wTa (w : Word) : Bool := w.getLsbD 18
/-- TB. -/
def wTb (w : Word) : Bool := w.getLsbD 19
/-- KX. -/
def wKx (w : Word) : Bool := w.getLsbD 20
/-- SOFF. -/
def wSoff (w : Word) : Nat := fld w 21 11

/-- The element width of a format code in memory (R143). -/
def codeWidth (c : Nat) : Nat :=
  if c = 0 || c = 6 then 32 else if c = 1 || c = 2 || c = 8 then 16 else if c = 5 || c = 9 || c = 12 then 4
  else if c = 14 then 64 else 8

/-- The block-scaled input types. -/
def isMx (c : Nat) : Bool := decide (10 ≤ c ∧ c ≤ 13)

/-- The first tile of a quadruple. -/
def quadBase (t : Nat) : Bool := t == 0 || t == 4

/-! ## Issue checks -/

/-- MXCFG (R179). -/
def cfgBad (w : Word) : Bool := fld w 6 26 != 0 || fld w 3 2 == 3 || (fld w 3 2 == 2 && !quadBase (wTile w))

/-- The descriptor of a drain destination or a load source, alone (R178). -/
def rowsDescrBad (d : Word × Word) : Bool := descrBad d.1 d.2 || (descr d.1 d.2).ppitch != 0

/-- The extent of a drain destination or a load source under a word (R178). -/
def rowsExtentBad (w : Word) (d : Word × Word) : Bool :=
  let g := descr d.1 d.2
  let row := 64 * codeWidth (wOtype w) / 8
  decide (g.rpitch * 16 < row) || decide (spadBytes < g.above (codeWidth (wOtype w)) 0 (wRows w) 64)

/-- The word of MXLD alone (R180). -/
def ldWordBad (w : Word) : Bool :=
  wAct w != 0 || fld w 9 8 != 0 || wPeer w != 0 || !([0, 6, 14].contains (wOtype w))
    || (wOtype w == 14 && !quadBase (wTile w)) || decide (64 < wFirst w + wRows w)

/-- The checks that MXDR and MXDRA share (R184). -/
def drainBad (w : Word) : Bool :=
  decide (64 < wFirst w + wRows w) || decide (8 ≤ wOtype w ∧ wOtype w ≤ 13) || wOtype w == 15 || wAct w == 3
    || (wOtype w == 14 && (!quadBase (wTile w) || wAct w != 0))

/-- The byte above an operand of MXMUL: byRow when k runs along the stored columns (R177). -/
def operandAbove (g : Descr) (w k : Nat) (kCols : Bool) : Nat :=
  let last := (k - 1) / 64
  let part := (k - 1) % 64 + 1
  let ab (p n : Nat) : Nat := if kCols then g.above w p 64 n else g.above w p n 64
  max (ab last part) (if last = 0 then 0 else ab (last - 1) 64)

/-- The extent of one operand of MXMUL with its scales (R176, R177). -/
def operandExtentBad (w : Word) (d : Word × Word) (trans : Bool) : Bool :=
  let g := descr d.1 d.2
  decide (spadBytes < operandAbove g (codeWidth (wItype w)) (wK w) (!trans))
    || (isMx (wItype w) && decide (spadBytes < g.off + wSoff w * 128 + 2 * wK w))

/-- The word of MXMUL alone (R181). -/
def mulWordBad (w : Word) : Bool :=
  let t := wItype w
  [6, 8, 9, 15].contains t || (isMx t && wK w % 32 != 0) || (t == 14 && !quadBase (wTile w)) || (!isMx t && wSoff w != 0)

/-! ## Issue (R353, R354) -/

/-- A check of words that are at hand. -/
def whenHas (o : Option (Word × Word)) (f : Word × Word → Bool) : Bool := o.elim false f

/-- The plan of an engine command; ok says what a command's words break. -/
def engineCmd (op : MxOp) (d : Reg) (a b : Opd) (e : Reg) (rnd : Rnd) (sat : Bool)
    (bad : Vals → Bool) : Plan :=
  sendPlan { a := a, b := b, e := .r e, d := .r d }
    (fun s v => illIf s (bad v || badHandler v.e))
    (fun _ _ => none)
    (fun s v => s.buffer (.matrix ⟨op, v.wd, v.wa, (v.a.getD (0, 0)).2, v.wb, (v.b.getD (0, 0)).2, rnd, sat,
      replyWord e v, 0, 0, s.issuer⟩))

/-- MXCFG (R179). -/
def execMxcfg (d : Reg) (e : Reg) (s : State) : Out :=
  issue (engineCmd .cfg d .none .none e .rne false fun v => whenHas v.d fun w => cfgBad w.1) s

/-- A check of a word and a pair, when both are at hand. -/
def withPair (d p : Option (Word × Word)) (f : Word → Word × Word → Bool) : Bool :=
  match d, p with
  | some w, some p => f w.1 p
  | _, _ => false

/-- The checks of the words of MXLD, each as soon as the words that it looks at are at hand (R59, R180, R234). -/
def ldBad (v : Vals) : Bool :=
  whenHas v.d (fun w => ldWordBad w.1) || whenHas v.a rowsDescrBad || withPair v.d v.a rowsExtentBad

/-- The checks of the words of MXMUL (R181, R182): A has its k along columns when TA = 0, B when TB = 1. -/
def mulBad (v : Vals) : Bool :=
  whenHas v.d (fun w => mulWordBad w.1) || whenHas v.a (fun x => descrBad x.1 x.2) || whenHas v.b (fun x => descrBad x.1 x.2)
    || withPair v.d v.a (fun w x => operandExtentBad w x (wTa w)) || withPair v.d v.b fun w y => operandExtentBad w y (!wTb w)

/-- The checks of the words of MXDR (R184, R185). -/
def drBad (v : Vals) : Bool :=
  whenHas v.d (fun w => drainBad w.1 || wPeer w.1 != 0) || whenHas v.a rowsDescrBad || withPair v.d v.a rowsExtentBad

/-- MXLD (R180). -/
def execMxld (d : Reg) (a : Pair) (e : Reg) (s : State) : Out :=
  issue (engineCmd .ld d (.p a) .none e .rne false ldBad) s

/-- MXMUL (R181). -/
def execMxmul (d : Reg) (a b : Pair) (e : Reg) (s : State) : Out :=
  issue (engineCmd .mul d (.p a) (.p b) e .rne false mulBad) s

/-- MXDR, with the rounding mode and saturation of MDX (R185). -/
def execMxdr (d : Reg) (a : Pair) (e : Reg) (r : Rnd) (sat : Bool) (s : State) : Out :=
  issue (engineCmd .dr d (.p a) .none e r sat drBad) s

/-- The peer core of MXDRA on this chip, with its key; none elsewhere (R187). The distributor is no core: LCORE 0xFFFF raises DEAD
(assumption 101). -/
def drainPeer (s : State) (o : Option (Word × Word)) : Option (Nat × BitVec 16) :=
  match o with
  | none => none
  | some e =>
    match (s.endpoint e).1 with
    | .here c k => if c.toNat < coreCount then some (c.toNat, k) else none
    | _ => none

/-- MXDRA (R187). -/
def execMxdra (d : Reg) (a : Pair) (e : Reg) (s : State) : Out :=
  issue (sendLooked (fun s v => s.noteDead false v.a) { a := .p a, e := .r e, d := .r d }
    (fun s v => illIf s (badEndpoint v.a || badHandler v.e || whenHas v.d fun w =>
      drainBad w.1 || !(wOtype w.1 == 0 || wOtype w.1 == 6) || (wOtype w.1 == 6 && decide (wScale w.1 < 0))))
    (fun s v => match v.a with
      | none => none
      | some ep => if (drainPeer s (some ep)).isNone then some (deadTrap ep) else none)
    (fun s v =>
      let (peer, key) := (drainPeer s v.a).getD (0, 0)
      (s.noteEndpoint (v.a.getD (0, 0))).buffer (.matrix ⟨.dra, v.wd, v.wa, (v.a.getD (0, 0)).2, 0, 0, .rne, false, replyWord e v, peer, key,
        s.issuer⟩))) s

/-! ## MXQRY (R175, R355) -/

/-- The pair that a query word selects. -/
def mxQuery (x : Cluster) (q : Word) : Word × Word :=
  let t := x.tiles[wTile q]'(Nat.mod_lt _ (by decide))
  match fld q 3 2 with
  | 0 => (t.mask.extractLsb' 0 32, t.mask.extractLsb' 32 32)
  | 1 => (t.xcnt, w32 (t.mode.toNat + (if t.pn then 4 else 0)))
  | _ => (w32 (x.mxq.length + (if x.wlvSince.isSome then 64 else 0)), x.repl)

/-- MXQRY reads the engine's state in the cycle in which it issues. -/
def execMxqry (d : Pair) (a : Reg) (s : State) : Out :=
  issue { form := { a := .r a, dst := .p d },
          early := fun s v => illIf s (whenHas v.a fun w => fld w.1 5 27 != 0 || fld w.1 3 2 == 3),
          body := fun s v =>
            let (lo, hi) := mxQuery (s.cluster (clusterOf s.cur.core)) v.wa
            .ok (s.writePair d lo hi) } s

end Sys2Proof.Machine
end

