-- ==== Sys2Proof/Machine/Copy.lean ====
section
/-! DEFINITION. Sys2Proof/Machine/Copy.lean: the copy instructions: their words, their issue checks and their issue
(R202 to R205, R314, R315). -/

namespace Sys2Proof.Machine

/-- Line count of a command word (R203). -/
def cpLines (w : Word) : Nat := fld w 8 12 + 1
/-- MODE. -/
def cpMode (w : Word) : Nat := fld w 20 2
/-- Element size in bytes of swap mode. -/
def cpElem (w : Word) : Nat := if w.getLsbD 7 then 8 else 4
/-- SSH or WIN. -/
def cpWin (w : Word) : Nat := fld w 22 4
/-- WAIT. -/
def cpWaits (w : Word) : Bool := w.getLsbD 6
/-- Byte offset of the block (R204). -/
def cpOff (b0 : Word) : Nat := fld b0 0 19

/-- What R205 refuses of a command word alone. -/
def cpWordBad (op : CpOp) (w : Word) : Bool :=
  let swap := cpMode w == 1
  let glob := op == .get || op == .fst
  decide (2 ≤ cpMode w) || (swap && !glob) || fld w 26 6 != 0
    || (cpWaits w && (op == .get || op == .fill))
    || (w.getLsbD 7 && !swap)
    || (cpWin w != 0 && (swap || op == .fill))

/-- What R205 refuses of a local pair alone. -/
def cpPairBad (op : CpOp) (b0 b1 : Word) : Bool :=
  fld b0 19 13 != 0 || cpOff b0 % 128 != 0
    || (op == .get && fld b1 0 16 != 0)
    || (op == .put && fld b1 12 20 != 0)
    || (op == .fill && b1 != 0)

/-- What R205 refuses of a command word and a local pair together. -/
def cpBothBad (w b0 b1 : Word) : Bool :=
  decide (spadBytes < cpOff b0 + 128 * cpLines w)
    || (cpMode w == 1 && (fld b1 22 2 != 0 || fld b1 30 2 != 0
        || decide (50 < fld b1 16 6 + (if w.getLsbD 7 then 1 else 0))
        || decide (50 < fld b1 24 6 + (if w.getLsbD 7 then 1 else 0))))

/-- What R205 refuses of a command word and a local pair. -/
def cpBad (op : CpOp) (w b0 b1 : Word) : Bool := cpWordBad op w || cpPairBad op b0 b1 || cpBothBad w b0 b1

/-- The checks of a command's words and handler word, each as soon as the words that it looks at are at hand (R59, R205,
R234). -/
def cpIll (op : CpOp) (s : State) (v : Vals) : Option TrapInfo :=
  illIf s (badHandler v.e || whenHas v.d (fun w => cpWordBad op w.1) || whenHas v.b (fun b => cpPairBad op b.1 b.2)
    || (match v.d, v.b with
        | some w, some b => cpBothBad w.1 b.1 b.2
        | _, _ => false))

/-- XLAT and ALIGN of a global VA pair: unit is the alignment (R79, R205). -/
def vaTrap (o : Option (Word × Word)) (unit : Nat) : Option TrapInfo :=
  match o with
  | none => none
  | some (lo, hi) =>
    if hi.extractLsb' 21 11 ≠ 0 then some ⟨9, lo, hi⟩ else if lo.toNat % unit ≠ 0 then some ⟨4, lo, hi⟩ else none

/-- A copy command as it enters the send buffer. -/
def cpCmd (s : State) (op : CpOp) (v : Vals) (e : Reg) : CpCmd where
  id := 0
  op := op
  w := v.wd
  a := v.pa
  b0 := v.wb
  b1 := (v.b.getD (0, 0)).2
  hw := replyWord e v
  by_ := s.issuer
  peer := 0
  peerChip := 0
  peerKey := 0
  entered := 0
  next := 0
  open_ := 0
  prog := []
  lines := []
  faulted := 0
  status := 0
  emptySince := none
  finished := false
  from_ := none
  aseq := 0
  views := []

/-- The alignment of a VA: a line in linear mode, an element in swap mode (R205). -/
def cpUnit (w : Word) : Nat := if cpMode w = 1 then cpElem w else 128

/-- The plan of CPGET and CPFST; far: CPFST, which ends the prefix (R314). -/
def cpGlobal (op : CpOp) (far : Bool) (d : Reg) (a b : Pair) (e : Reg) : Plan where
  form := { a := .p a, b := .p b, e := .r e, d := .r d }
  early := cpIll op
  late := fun _ v => vaTrap v.a (if v.d.isSome then cpUnit v.wd else 1)
  full := State.bufferFull
  seals := fun _ _ => far
  ready := fun s _ => s.bufferRoom
  body := fun s v => .ok (s.buffer (.copy (cpCmd s op v e)))

/-- CPGET (R314). -/
def execCpget (d : Reg) (a b : Pair) (e : Reg) (s : State) : Out := issue (cpGlobal .get false d a b e) s
/-- CPFST (R314). -/
def execCpfst (d : Reg) (a b : Pair) (e : Reg) (s : State) : Out := issue (cpGlobal .fst true d a b e) s

/-- The peer of a CPPUT: core or logical core, chip, key (R208). -/
def cpPeer (s : State) (e : Word × Word) : Nat × BitVec 22 × BitVec 16 :=
  match (s.endpoint e).1 with
  | .here c k => (c.toNat, s.chip, k)
  | .far chip l => (l.toNat, chip, 0)
  | .dead => (0, 0, 0)

/-- CPPUT resolves its endpoint at issue (R314); LCORE 0xFFFF raises DEAD (assumption 101). -/
def execCpput (d : Reg) (a b : Pair) (e : Reg) (s : State) : Out :=
  issue (sendLooked (fun s v => s.noteDead true v.a) { a := .p a, b := .p b, e := .r e, d := .r d }
    (fun s v => (illIf s (badEndpoint v.a)).or (cpIll .put s v))
    (fun s v => s.endpointDead true v.a)
    (fun s v =>
      let (peer, chip, key) := cpPeer s (v.a.getD (0, 0))
      (s.noteEndpoint (v.a.getD (0, 0))).buffer (.copy { cpCmd s .put v e with peer := peer, peerChip := chip, peerKey := key }))) s

/-- CPFILL (R314). -/
def execCpfill (d a : Reg) (b : Pair) (e : Reg) (s : State) : Out :=
  issue (sendPlan { a := .r a, b := .p b, e := .r e, d := .r d } (cpIll .fill) (fun _ _ => none)
    (fun s v => s.buffer (.copy (cpCmd s .fill v e)))) s

end Sys2Proof.Machine
end

