-- ==== Sys2Proof/Machine/CopyEngine.lean ====
section
/-! DEFINITION. Sys2Proof/Machine/CopyEngine.lean: the copy engine: requests (R206, R207, R211 to R214), returning data
(R207), deliveries (R208 to R210), and completions (R215). -/

namespace Sys2Proof.Machine

/-! ## Global addressing (R206) -/

/-- One request: its global line, and the block words it moves: byte offset in the block, VA. -/
abbrev CpGroup := BitVec 64 × List (Nat × BitVec 64)

/-- The global address of an element in swap mode. -/
def swapAddr (va elem i j x : Nat) : Nat :=
  let n := va / elem + x
  let n := if i ≠ j ∧ n.testBit i ≠ n.testBit j then n ^^^ 2 ^ i ^^^ 2 ^ j else n
  n * elem % 2 ^ 64

/-- Put an element's words into the last group when it meets the same global line, else begin a group. -/
def addElement (gs : List CpGroup) (line : BitVec 64) (ws : List (Nat × BitVec 64)) : List CpGroup :=
  match gs.getLast? with
  | some (l, old) => if l = line then gs.dropLast ++ [(l, old ++ ws)] else gs ++ [(line, ws)]
  | none => [(line, ws)]

/-- The words of an element: successive words from a block offset and a VA. -/
def elementWords (n off : Nat) (va : BitVec 64) : List (Nat × BitVec 64) :=
  (List.range n).map fun k => (off + 4 * k, va + BitVec.ofNat 64 (4 * k))

/-- The requests of a block line of CPGET or CPFST, in order. -/
def CpCmd.groups (c : CpCmd) (line : Nat) : List CpGroup :=
  if cpMode c.w = 1 then
    let e := cpElem c.w
    (List.range (128 / e)).foldl (fun gs k =>
      let va := swapAddr c.a.toNat e (fld c.b1 16 6) (fld c.b1 24 6) (line * (128 / e) + k)
      addElement gs (BitVec.ofNat 64 (va / 128 * 128)) (elementWords (e / 4) (128 * line + e * k) (BitVec.ofNat 64 va))) []
  else
    let stride : Int := signed 16 (fld c.b1 16 16) * 2 ^ (7 + cpWin c.w)
    let va := c.a + BitVec.ofInt 64 (line * stride)
    [(va, elementWords 32 (128 * line) va)]

/-! ## The queue (R213) -/

/-- Block lines of a command; of a delivery, the lines it carries. -/
def CpCmd.count (c : CpCmd) : Nat := if c.op = .deliver then c.lines.length else cpLines c.w

/-- Every request of a command has been issued. -/
def CpCmd.allIssued (c : CpCmd) : Bool := decide (32 * c.count ≤ c.next)

/-- The place of the request after the next one, when its line has n requests. -/
def CpCmd.after (c : CpCmd) (n : Nat) : Nat := if c.next % 32 + 1 < n then c.next + 1 else 32 * (c.next / 32 + 1)

/-- Slack less age (R213). -/
def CpCmd.eff (c : CpCmd) (now : Nat) : Nat := fld c.w 0 6 - (now - c.entered) / 1024

/-- The scratchpad offset of the command's next line. -/
def CpCmd.nextOff (c : CpCmd) : Nat := cpOff c.b0 + 128 * (c.next / 32)

/-- The next source line is awaited and empty (R214). -/
def waitsLine (s : State) (cl : Nat) (c : CpCmd) : Bool :=
  (c.op == .put || c.op == .fst) && cpWaits c.w && !((s.cluster cl).spad.line (c.nextOff / 128)).fe

/-- CPGET reads of a cluster that are outstanding (R207). -/
def copyReads (s : State) (cl : Nat) : Nat :=
  let mine : ReadFor → Bool
    | .copy c _ _ => c == cl
    | _ => false
  (s.reads.filter fun r => mine r.dest).length + (s.replies.filter fun r => mine r.dest).length

/-- CPFST requests of a core that are outstanding (R102, R211). -/
def copyStores (s : State) (core : Nat) : Nat := (s.pending.filter fun p => p.core == core && p.cmd.isSome).length

/-- A command has been started; a delivery counts as started (R227, R228). -/
def CpCmd.begun (c : CpCmd) : Bool := c.op == .deliver || c.next != 0

/-- A command has a request that may be issued (R207, R211, R213, R214). A draining cluster starts none (R227) but CPGETs and
CPFSTs, for which the arrivals of its cores wait (R97; assumption 86). -/
def issuable (s : State) (cl : Nat) (c : CpCmd) : Bool :=
  !c.allIssued && !waitsLine s cl c && ((s.cluster cl).drain.isNone || c.begun || c.op == .get || c.op == .fst) &&
    (match c.op with
     | .get => decide (copyReads s cl < 128)
     | .fst => decide (copyStores s c.by_.core < 64)
     | _ => true)

/-- The command that is served: the least eff, the first on a tie (R213). -/
def chooseCopy (s : State) (cl : Nat) : List CpCmd → Option CpCmd
  | [] => none
  | c :: r =>
    match chooseCopy s cl r with
    | none => if issuable s cl c then some c else none
    | some d => if issuable s cl c && decide (c.eff s.now ≤ d.eff s.now) then some c else some d

/-- Since when the next line of each command has been found empty (R214); words of it that were read ahead count no more. -/
def noteWaits (s : State) (cl : Nat) : State :=
  let note (c : CpCmd) : CpCmd :=
    if !c.allIssued && waitsLine s cl c then { c with emptySince := c.emptySince.or (some s.now), views := [] }
    else { c with emptySince := none }
  s.updCluster cl fun x => { x with cpq := x.cpq.map note }

/-- In every cycle each engine with a command that awaits lines sees which of them are empty (R214). -/
def noteAllWaits (s : State) : State :=
  s.clusters.foldl (fun s e => if e.2.cpq.any fun c => cpWaits c.w then noteWaits s e.1 else s) s

/-! ## Scratchpad lines -/

/-- The engine reads words of a scratchpad line for a command, those that it has not read ahead (R71, R74, R138): the line's 32
words, 0 where it does not read, and the poison. js: which words. -/
def readLine (s : State) (core off : Nat) (views : List NearView) (js : List Nat) : State × List Word × Bool :=
  let cl := clusterOf core
  let s := s.engSettle cl true fun x => x.line == off / 128
  let (s, ws) := (List.range 32).foldl (fun (x : State × List Word) i =>
    if !js.contains i then (x.1, x.2 ++ [0])
    else
      match views.find? fun v => v.addr == off + 4 * i with
      | some v => (x.1, x.2 ++ [v.val])
      | none =>
        let (s, w, _) := x.1.readLocal core 0 unitCopy (0x100000 + off + 4 * i)
        (s, x.2 ++ [w])) (s, [])
  (s, ws, (s.cluster cl).spad.poisonSeen views (off / 128))

/-- The words of a line. -/
def lineWordsOf (off : Nat) (ws : List Word) : List (Nat × Word) := (List.range ws.length).map fun i => (off + 4 * i, ws.getD i 0)

/-- An engine write of a whole scratchpad line (R71, R125). -/
def writeLine (s : State) (core id off : Nat) (ws : List Word) (p : Bool) : State :=
  s.engWrite (clusterOf core) true [⟨id, off / 128, lineWordsOf off ws, some (true, p)⟩]

/-- The engine reads a word ahead for a command (R129, R138): of a line that it has still to read, for one that awaits its lines
only of the next line, full; one that holds no error and that the engine has not still to write. -/
def cpReadAhead (s : State) (cl id off : Nat) : State :=
  let x := s.cluster cl
  match x.cpq.find? fun c => c.id == id with
  | none => s
  | some c =>
    let first := c.nextOff
    let last := if cpWaits c.w then first + 128 else cpOff c.b0 + 128 * c.count
    if x.power == .on && (c.op == .put || c.op == .fst) && !c.allIssued && !waitsLine s cl c && (x.spad.err off).isNone
        && decide (first ≤ off ∧ off < last ∧ off % 4 = 0) && !(c.views.any fun v => v.addr == off)
        && !(x.cpLate.any fun l => l.line == off / 128) then
      s.updCopy cl id fun c => { c with views := c.views ++ [⟨off, x.spad.word off, (x.spad.line (off / 128)).p⟩] }
    else s

/-- The command begins a line: its requests, its poison so far. -/
def CpCmd.begin (c : CpCmd) (left : Nat) (p : Bool) : CpCmd :=
  if c.prog.any fun x => x.line == c.next / 32 then
    { c with prog := c.prog.map fun x => if x.line = c.next / 32 then { x with p := x.p || p } else x }
  else { c with prog := c.prog ++ [⟨c.next / 32, left, 0, 0, p⟩] }

/-! ## Requests (R207, R208, R211, R212) -/

/-- One CPGET request: a read of a global line. -/
def requestGet (s : State) (cl : Nat) (c : CpCmd) : State :=
  let gs := c.groups (c.next / 32)
  let (line, ws) := gs.getD (c.next % 32) (0, [])
  let base := line - BitVec.ofNat 64 (line.toNat % 128)
  let dst := (List.range 32).map fun i =>
    (ws.find? fun x => x.2 == base + BitVec.ofNat 64 (4 * i)).map fun x => cpOff c.b0 + x.1
  let s := s.updCopy cl c.id fun c => { (c.begin gs.length false) with next := c.after gs.length, open_ := c.open_ + 1 }
  { s with
    readId := s.readId + 1
    reads := s.reads ++ [⟨s.readId, c.by_, base, 32, c.by_.tag, .copy cl c.id dst, s.readId,
      some (State.stationOf (dieOfCluster cl) base), none, false, false⟩] }

/-- One CPFST request: a far store of the group's words, with the next number of its core (R101, R211). -/
def requestStore (s : State) (cl : Nat) (c : CpCmd) : State :=
  let gs := c.groups (c.next / 32)
  let (_, ws) := gs.getD (c.next % 32) (0, [])
  let (s, data, p) := readLine s c.by_.core c.nextOff c.views (ws.map fun x => x.1 % 128 / 4)
  let va := (ws.headD (0, 0)).2
  let words := ws.map fun (o, v) => (v, data.getD (o % 128 / 4) 0)
  let k := s.core c.by_.core
  let st : FarStore :=
    { kind := .cpfst, by_ := c.by_, key := c.b1.extractLsb' 0 16, seq := k.farSeq, va := va, words := words, p := p,
      pairs := cpMode c.w == 1 && cpElem c.w == 8, stallmax := k.stallmax, born := s.readId,
      cmd := some (cl, c.id, c.next / 32), place := .translate (State.stationOf (dieOfCluster cl) va), second := false,
      from_ := none, replay := none, stalled := false }
  let s := s.updCopy cl c.id fun c => { (c.begin gs.length p) with
    next := c.after gs.length, open_ := c.open_ + 1, emptySince := none }
  let s := s.updCore c.by_.core fun k => { k with farSeq := k.farSeq + 1 }
  { s with
    pending := s.pending ++ [{
      core := c.by_.core, ctx := c.by_.ctx, pid := c.by_.pid, seq := st.seq, tag := c.by_.tag,
      cmd := st.cmd, chips := [s.chip], store := none, failed := [] }]
    readId := s.readId + 1
    stores := s.stores ++ [st] }

/-- The lines of a CPPUT leave for the peer, with the arrival message's number (R208, R437); with no line there is
nothing to deliver. A command for another chip carries its age, and goes in packets of at most eight lines (R254). -/
def sendLines (s : State) (cl : Nat) (c : CpCmd) : State :=
  if c.lines.isEmpty then s.updCopy cl c.id fun c => { c with finished := true }
  else
    let (q, s) := s.nextSeq c.by_.core
    let d : CpCmd := { c with op := .deliver, next := 0, open_ := 0, prog := [], from_ := some (s.chip, cl, c.id), aseq := q }
    if c.peerChip = s.chip then { s with deliveries := s.deliveries ++ [d] }
    else
      let n := (c.lines.length + 7) / 8
      (List.range n).foldl (fun (s : State) k => s.sendPacket c.peerChip 2 (.lines
        { d with entered := s.now - c.entered, lines := (c.lines.drop (8 * k)).take 8 } (k + 1 == n))) s

/-- One CPPUT request: a source line is read; with the last one the lines leave. -/
def requestPut (s : State) (cl : Nat) (c : CpCmd) : State :=
  let (s, data, p) := readLine s c.by_.core c.nextOff c.views (List.range 32)
  let c := { (c.begin 0 p) with next := c.after 1, lines := c.lines ++ [⟨c.next / 32, data, p⟩], emptySince := none }
  let s := s.updCopy cl c.id fun _ => c
  if c.allIssued then sendLines s cl c else s

/-- One CPFILL request: a line of the pattern (R212). -/
def requestFill (s : State) (cl : Nat) (c : CpCmd) : State :=
  let s := writeLine s c.by_.core c.id c.nextOff (List.replicate 32 (c.a.extractLsb' 0 32)) false
  s.updCopy cl c.id fun c => { (c.begin 0 false) with next := c.after 1 }

/-- One line of an accepted delivery is written (R208). -/
def requestDeliver (s : State) (cl : Nat) (c : CpCmd) : State :=
  let x := c.lines.getD (c.next / 32) ⟨0, [], false⟩
  let s := writeLine s c.peer c.id c.nextOff x.words x.p
  s.updCopy cl c.id fun c => { c with next := c.after 1 }

/-- COPY_REQUEST: the engine issues one request of the most urgent eligible command (R213). -/
def execCopyRequest (cl : Nat) (s : State) : Out :=
  if (s.cluster cl).power != .on then .next s
  else
    match chooseCopy s cl (s.cluster cl).cpq with
    | none => .next (noteWaits s cl)
    | some c =>
      let s := match c.op with
        | .get => requestGet s cl c
        | .fst => requestStore s cl c
        | .put => requestPut s cl c
        | .fill => requestFill s cl c
        | .deliver => requestDeliver s cl c
      .next (noteWaits s cl)

/-! ## Data of a CPGET (R207) -/

/-- The words of a read are written into the block. -/
def fillWords (s : State) (cl id line : Nat) (dst : List (Option Nat)) (ws : List Word) : State :=
  s.engWrite cl true [⟨id, line, (dst.zip ws).filterMap fun (o, w) => o.map fun a => (a, w), none⟩]

/-- The sideband of a destination line once its last request has been answered: unchanged when no data came. It changes after the
last word of the line has been written. -/
def closeLine (s : State) (cl id off line : Nat) : State :=
  match (s.cluster cl).cpq.find? fun c => c.id == id with
  | none => s
  | some c =>
    match c.prog.find? fun x => x.line == line with
    | none => s
    | some x =>
      if x.left = 0 ∧ 0 < x.wrote then
        (if s.cur.late then s else s.engSettle cl true fun y => y.line == off / 128).engWrite cl true
          [⟨id, off / 128, [], some (x.wrote == 32, x.p)⟩]
      else s

/-- COPY_READ_RETURN: data of a CPGET request comes back, or the request has failed (R207, R258). -/
def execCopyReadReturn (i : Nat) (s : State) : Out :=
  match takeAt s.replies i with
  | none => .next s
  | some (r, rest) =>
    match r.dest with
    | .copy cl id dst =>
      let s := { s with replies := rest }
      let off := (dst.findSome? fun o => o).getD 0
      match (s.cluster cl).cpq.find? fun c => c.id == id with
      | none => .next s
      | some c =>
        let line := (off - cpOff c.b0) / 128
        let n := (dst.filter Option.isSome).length
        let s := match r.res with
          | .data ws p => (fillWords s cl id (off / 128) dst ws).updCopy cl id fun c => c.answered line 0 n p
          | .fail cause => s.updCopy cl id fun c => c.answered line (copyStatus cause) 0 false
          | .dead _ _ => s.updCopy cl id fun c => c.answered line 1 0 false
        .next (closeLine s cl id off line)
    | _ => .next s

/-! ## Deliveries (R208, R209) -/

/-- The peer engine refuses a delivery (R208). -/
def refuses (s : State) (d : CpCmd) : Bool :=
  let x := s.cluster (clusterOf d.peer)
  let w := x.wins[cpWin d.w % 16]'(Nat.mod_lt _ (by decide))
  decide (coreCount ≤ d.peer) || (s.core d.peer).pkey != d.peerKey || x.power == .off || !w.en
    || decide (w.nlw.toNat + 1 < fld d.b1 0 12 + cpLines d.w)
    || decide (4096 < w.base.toNat + w.nlw.toNat + 1)

/-- The outcome of a delivery goes back to the sender's engine. -/
def deliveryEnded (s : State) (d : CpCmd) (status : Nat) : State :=
  match d.from_ with
  | none => s
  | some (chip, cl, id) =>
    if chip = s.chip then s.linesEnded cl id status
    else if (s.conn chip 2).unreachable then s
    else s.gateway chip 2 (.linesDone cl id status)

/-- An accepted delivery as it stands in the peer's queue: the window's lines, and what its arrival message needs. -/
def CpCmd.placed (d : CpCmd) (x : Cluster) (id : Nat) : CpCmd :=
  let w := x.wins[cpWin d.w % 16]'(Nat.mod_lt _ (by decide))
  { d with
    id := id
    b0 := w32 (128 * (w.base.toNat + fld d.b1 0 12))
    hw := some (w32 (w.entry.toNat + 2 ^ 16 * w.prio.toNat + 2 ^ 22 + 2 ^ 24 * w.utag.toNat))
    peer := coreOfCluster (clusterOf d.peer) w.tcore.toNat }

/-- CPPUT_DELIVERY: a delivery reaches the peer engine, which refuses it or takes it into its queue (R208, R213). One that finds 64
commands there waits, outside the order of the releases that wait (assumption 87). -/
def execCpputDelivery (i : Nat) (s : State) : Out :=
  match takeAt s.deliveries i with
  | none => .next s
  | some (d, rest) =>
    if refuses s d then .next (deliveryEnded { s with deliveries := rest } d 3)
    else
      let cl := clusterOf d.peer
      if 64 ≤ (s.cluster cl).cpq.length then .next s
      else
        let s := { s with deliveries := rest }
        .next (s.updCluster cl fun x => { x with cpq := x.cpq ++ [d.placed x x.nextCp], nextCp := x.nextCp + 1 })

/-! ## The end of a command (R210, R214, R215) -/

/-- The arrival message of a delivery (R210). -/
def arrivalMsg (s : State) (d : CpCmd) : Msg :=
  { (Msg.blank.withHandler (d.hw.getD 0)) with
    dcore := BitVec.ofNat 16 d.peer, dkey := (s.core d.peer).pkey, dchip := s.chip, score := d.by_.lcore,
    schip := d.by_.rank, pid := d.by_.pid, stag := d.by_.tag, seq := d.aseq, nw := 6,
    body := [w32 (cpWin d.w), w32 (fld d.b1 0 12), w32 (cpLines d.w), w32 (d.lines.filter fun x => x.p).length,
      d.by_.lcore.setWidth 32, d.by_.rank.setWidth 32] }

/-- What a completion follows has happened (R215). -/
def CpCmd.ended (c : CpCmd) : Bool :=
  match c.op with
  | .put => c.finished
  | _ => c.allIssued && c.open_ == 0

/-- Payload of a completion (R215). Word 2 of a CPGET counts the lines for which data with P = 1 came, not a line that keeps only
its old P (assumption 88). -/
def CpCmd.result (c : CpCmd) : List Word :=
  let whole := (c.prog.filter fun x => x.left == 0 && x.faults == 0).length
  [w32 c.status, w32 (if c.op = .put ∧ c.status = 3 then 0 else whole), w32 (c.prog.filter fun x => x.p).length,
    w32 c.faulted]

/-- COPY_COMPLETION: a command leaves the queue, its writes performed (R131): its completion, or event 35 (R215), which carries the
command's PID and tag (assumption 97); for a delivery, the arrival message and the answer to the sender (R208, R210). -/
def execCopyCompletion (cl i : Nat) (s : State) : Out :=
  match takeAt (s.cluster cl).cpq i with
  | none => .next s
  | some (c, rest) =>
    if !c.ended || (s.cluster cl).power != .on then .next s
    else
      let s := (s.engSettle cl true fun x => x.cmd == c.id).updCluster cl fun x => { x with cpq := rest }
      if c.op = .deliver then .next (deliveryEnded (s.send (arrivalMsg s c)) c 0)
      else
        match c.hw with
        | some hw => .next (s.completion c.by_ hw c.result)
        | none =>
          .next (if 1 ≤ c.status ∧ c.status ≤ 4 then s.coreEvent c.by_.core ⟨0, unitCopy, c.by_.pid, c.by_.tag⟩ 35 (w32 c.status) c.w else s)

/-- A command ends at an awaited line: nothing after it is read, status 4 (R214). -/
def endAtLine (s : State) (cl : Nat) (c : CpCmd) : State :=
  let c := { c with status := lowerStatus c.status 4, next := 32 * c.count }
  let s := s.updCopy cl c.id fun _ => c
  if c.op = .put then sendLines s cl c else s

/-- WAIT_TIMEOUT: the next line of a command has stayed empty for 2^20 cycles (R214). -/
def execWaitTimeout (cl i : Nat) (s : State) : Out :=
  if (s.cluster cl).power != .on then .next s
  else
    let s := noteWaits s cl
    match (s.cluster cl).cpq[i]? with
    | none => .next s
    | some c =>
      match c.emptySince with
      | none => .next s
      | some t => .next (if 2 ^ 20 ≤ s.now - t then endAtLine s cl c else s)

end Sys2Proof.Machine
end

