-- ==== Sys2Proof/Machine/Domain.lean ====
section
/-! DEFINITION. Sys2Proof/Machine/Domain.lean: the step domains: members and arrival reports (R97, R100, R114, R419),
the boundary, held commits and decisions (R119 to R124, R383), the commit notice (R116), the packets of the step tree,
and the retirement of a PID (R12). -/

namespace Sys2Proof.Machine

namespace State

/-! ## Members and reports (R100, R114, R419) -/

/-- The cores of a PID that are members of its domain, with the step from which they are. -/
def joinedCores (s : State) (pid : BitVec 16) : List (Nat × BitVec 64) :=
  s.cores.filterMap fun e => if e.2.pid = pid then e.2.joined.map fun j => (e.1, j) else none

/-- The step that the domain is in: C + 1. -/
def openStep (s : State) (pid : BitVec 16) : Nat := ((s.domain pid).c + 1).toNat

/-- Every member core of a step on this chip has been reported (R97, R114). -/
def coresDone (s : State) (pid : BitVec 16) (t : Nat) : Bool :=
  let d := s.domain pid
  ((s.joinedCores pid).all fun (core, j) => decide (t < j.toNat) || d.reported.contains (t, core))
    && d.ghosts.all fun g => g.1 != t

/-- The report of a core that a trip has reset, which its die makes (R272): it is no report of the core that is placed there
anew. -/
def ghostReport (core : Nat) : Nat := 2 ^ 27 + core

/-- The chip has a core in the domain, or the arrival of one that has left at the open step. -/
def hasMember (s : State) (pid : BitVec 16) : Bool :=
  let d := s.domain pid
  !(s.joinedCores pid).isEmpty || !d.ghosts.isEmpty
    || d.reported.any fun x => x.1 == s.openStep pid && decide (x.2 < coreCount ∨ 2 ^ 27 ≤ x.2)

/-- The domain has a member, on this chip or on another (R346, R436). -/
def anyMember (s : State) (pid : BitVec 16) : Bool := s.hasMember pid || !(s.domain pid).live.isEmpty

/-- A launch of a PID waits in the distributor's queue and has not been placed yet. -/
def launchWaits (s : State) (pid : BitVec 16) : Bool :=
  s.dist.queue.any fun l => (l.rec_.getD 0 0).extractLsb' 0 16 == pid && !l.saved

/-- The chip may report a step: for step 0, what R419 asks. -/
def chipReady (s : State) (pid : BitVec 16) (t : Nat) : Bool :=
  s.coresDone pid t && (t != 0 || ((s.domain pid).launched && !s.launchWaits pid))

/-- The chips of a domain, each once; this chip alone while no map record names any. -/
def treeChips (s : State) (pid : BitVec 16) : List (BitVec 22) :=
  let l := (s.domainChips pid).eraseDups
  if l.isEmpty then [s.chip] else l

/-- A step-tree packet to every other chip of the domain. -/
def toTree (s : State) (pid : BitVec 16) (p : Packet) : State :=
  (s.treeChips pid).foldl (fun (s : State) c => if c = s.chip then s else s.gateway c 3 p) s

/-- This chip tells the others whether it has a core in the domain, when that has changed (R436). -/
def tellMember (s : State) (pid : BitVec 16) : State :=
  let live := s.hasMember pid
  if (s.domain pid).told = live then s
  else (s.updDomain pid fun d => { d with told := live }).toTree pid (.member pid live)

/-- The chips without a core when another chip reports step 0: it is for their launches that the boundary waits (R419). -/
def chipsOwing (s : State) (pid : BitVec 16) (chip : BitVec 22) : List (BitVec 22) :=
  let d := s.domain pid
  (s.treeChips pid).filter fun c => c != chip && !d.live.contains c && !(c == s.chip && s.hasMember pid)
    && !d.reported.contains (0, 65536 + c.toNat) && !d.reported.contains (0, 2 ^ 26 + c.toNat)

/-- The root notes that a chip has reported a step; live: it has a core in the domain. The report of step 0 of a chip that had
no core when another reported has been held for a launch (R114, R419). -/
def noteReport (s : State) (pid : BitVec 16) (t : Nat) (chip : BitVec 22) (late live : Bool) : State :=
  let owing := if t = 0 then s.chipsOwing pid chip else []
  s.updDomain pid fun d => { d with
    reported := d.reported ++ [(t, (if live then 65536 else 2 ^ 24) + chip.toNat)] ++ owing.map fun c => (0, 2 ^ 26 + c.toNat)
    late := late || (t == 0 && d.reported.contains (0, 2 ^ 26 + chip.toNat)) }

/-- Every chip has reported a step, and one of them has a core in the domain (R100, R114). -/
def boundaryComplete (s : State) (pid : BitVec 16) (t : Nat) : Bool :=
  let r := (s.domain pid).reported
  let live (c : BitVec 22) : Bool := r.contains (t, 65536 + c.toNat)
  ((s.treeChips pid).all fun c => live c || r.contains (t, 2 ^ 24 + c.toNat)) && (s.treeChips pid).any live

/-- The apply signal is released: it reaches this chip and travels to the others (R114). -/
def releaseApply (s : State) (pid : BitVec 16) : State :=
  let t := s.openStep pid
  (s.updDomain pid fun d => { d with phase := .apply }).toTree pid (.apply pid t (s.domain pid).late)

/-- The root acts on a complete boundary: it holds the commit while a fault of the step is undecided, else it releases
the apply signal (R114, R119). -/
def rootBoundary (s : State) (pid : BitVec 16) : State :=
  let d := s.domain pid
  let t := s.openStep pid
  if !s.isRoot pid || d.phase ≠ .open_ || !s.boundaryComplete pid t then s
  else if !d.abortNow && d.faults.any fun f => f.step == t then
    (s.updDomain pid fun d => { d with phase := .held }).toTree pid (.held pid t)
  else s.releaseApply pid

/-- The chip reports the open step up the tree, once; it reports again when it gets its first core. A report of step 0 that is
held for a launch stretches the boundary (R114, R419). -/
def chipReport (s : State) (pid : BitVec 16) : State :=
  let d := s.domain pid
  let t := s.openStep pid
  let live := s.hasMember pid
  let again : Bool := match d.chipReported with
    | some (u, l) => u != t || (live && !l)
    | none => true
  if d.phase = .open_ ∧ again ∧ s.coresDone pid t ∧ !s.chipReady pid t then
    s.updDomain pid fun d => { d with waited := true }
  else if d.phase = .open_ ∧ again ∧ s.chipReady pid t then
    let late := d.late || d.waited
    let s := s.updDomain pid fun d => { d with chipReported := some (t, live) }
    if s.isRoot pid then s.noteReport pid t s.chip late live
    else s.gateway (s.rootChip pid) 3 (.report pid t late live)
  else s

/-- What follows when a report, a placement or a departure may complete a boundary. -/
def boundary (s : State) (pid : BitVec 16) : State := ((s.tellMember pid).chipReport pid).rootBoundary pid

/-! ## Decisions (R122 to R124, R383) -/

/-- The parked requests of a process's steps that satisfy a test are freed (R239). -/
def freeParked (s : State) (pid : BitVec 16) (gone : Nat → Bool) : State :=
  (List.range 8).foldl (fun (s : State) i => s.updDie i fun x => { x with parked := x.parked.filter fun e =>
    match e.2 with
    | .request p t _ _ => !(p == pid && gone t)
    | .trigger _ => true }) s

/-- A step is aborted on this chip (R124): its staging is discarded. A step that this chip is not yet in keeps the decision
(R383). -/
def abortStep (s : State) (pid : BitVec 16) (t : Nat) : State :=
  let s := (List.range 32).foldl (fun (s : State) i => s.updStation i fun x => { x with
    staging := x.staging.filter fun e => !(e.pid == pid && e.step == t) }) s
  let s := s.freeParked pid fun u => u == t
  s.updDomain pid fun d => { d with
    abortNow := d.abortNow || decide ((t : Int) = d.c + 1)
    abortNext := d.abortNext || decide ((t : Int) = d.c + 2)
    abortLater := if (t : Int) ≤ d.c + 2 then d.abortLater else d.abortLater ++ [t]
    faults := d.faults.filter fun f => f.step != t }

/-- The root settles a decision: its status and the state (R123, R124, R383). -/
def settleDecision (s : State) (r : DecisionReq) : Nat × State :=
  let d := s.domain r.pid
  let now := wInt (d.c + 1) == r.step
  let next := wInt (d.c + 2) == r.step
  if r.abort then
    if now && d.phase != .apply && !d.abortNow then
      let t := s.openStep r.pid
      let s := (s.abortStep r.pid t).toTree r.pid (.abort r.pid t)
      (0, if d.phase = .held then s.releaseApply r.pid else s)
    else if next && !d.abortNext then
      let t := s.openStep r.pid + 1
      (0, (s.abortStep r.pid t).toTree r.pid (.abort r.pid t))
    else (1, s)
  else if now && d.phase == .held then (0, s.releaseApply r.pid)
  else (1, s)

/-- The answer of a decision leaves the chip on which it was issued (R122, R435). -/
def answerDecision (s : State) (r : DecisionReq) (st : Nat) : State :=
  match r.hw with
  | none => s
  | some hw => s.answerTo .distributor unitDistributor r.by_.pid r.by_.lcore r.by_.rank r.by_.tag hw [w32 st]

/-! ## Commit (R116) -/

/-- Every station of the chip has applied the open step. -/
def chipApplied (s : State) (pid : BitVec 16) : Bool := (s.domain pid).applied.length == 32

/-- The commit notice may take effect on this chip: at the root once every chip has applied, elsewhere once the notice
has come. -/
def mayCommit (s : State) (pid : BitVec 16) : Bool :=
  let d := s.domain pid
  let t := s.openStep pid
  if s.isRoot pid then
    d.phase == .apply && s.chipApplied pid &&
      (s.treeChips pid).all fun c => c == s.chip || d.reported.contains (t, 2 ^ 23 + c.toNat)
  else d.reported.contains (t, 2 ^ 25)

/-- The boundary of the open step is stretched: by its last report (R114), or by a packet of the step tree (R258). -/
def stepLate (s : State) (pid : BitVec 16) : Bool :=
  let d := s.domain pid
  d.late || d.reported.contains (s.openStep pid, 2 ^ 25 + 1)

/-- A packet of the step tree stretches a step (R258), which is counted once, also when C has gone on. -/
def stretchStep (s : State) (pid : BitVec 16) (t : Nat) : State :=
  s.updDomain pid fun d =>
    if d.reported.contains (t, 2 ^ 25 + 1) then d
    else { d with
      reported := d.reported ++ [(t, 2 ^ 25 + 1)], stretched := if (t : Int) ≤ d.c then d.stretched + 1 else d.stretched }

/-- A step opens. The cores that arrive at it without STEP, since they have retired or a drain makes them leave (R227, R246), and the
arrivals that are left to the dies (R272), are delayed when their stores and reads are not settled (R114). -/
def openMarks (s : State) (pid : BitVec 16) : State :=
  let t := s.openStep pid
  let leaves (core : Nat) : Bool := (s.core core).ret || decide (4 ≤ ((s.cluster (clusterOf core)).drain.elim 0 Drain.phase))
  let s := (s.joinedCores pid).foldl (fun (s : State) x =>
    if leaves x.1 && (s.core x.1).s.toNat == t then s.markUnsettled x.1 else s) s
  s.updDomain pid fun d => { d with ghosts := d.ghosts.map fun g =>
    if g.1 = t then (g.1, g.2.1, g.2.2 || !s.settled g.2.1 pid (BitVec.ofNat 64 t)) else g }

/-- The chip sets C (R116). A stretched boundary is counted (R114), once, also when the packets that stretch it go on (R258). -/
def commitStep (s : State) (pid : BitVec 16) : State :=
  let t := s.openStep pid
  let long := s.stepLate pid
  let s := s.freeParked pid fun u => decide (u ≤ t)
  (s.updDomain pid fun d => { d with
    c := d.c + 1
    phase := .open_
    abt := d.abortNow
    abortNow := d.abortNext
    abortNext := d.abortLater.any fun t => decide ((t : Int) = d.c + 3)
    abortLater := d.abortLater.filter fun t => decide (d.c + 3 < (t : Int))
    stretched := if long then d.stretched + 1 else d.stretched
    late := false
    waited := false
    faults := d.faults.filter fun f => decide (t < f.step)
    reported := (if long then [(t, 2 ^ 25 + 1)] else []) ++ d.reported.filter fun x => decide (t < x.1) || (x.2 == 2 ^ 25 + 1 && x.1 != t)
    signalled := false
    applied := []
    applying := []
    flips := [] }).openMarks pid

/-! ## Packets of the step tree (R114 to R124) -/

/-- A packet of the step tree has come from another chip. -/
def treePacket (s : State) (chip : BitVec 22) (p : Packet) : State :=
  match p with
  | .report pid t late live => (s.noteReport pid t chip late live).rootBoundary pid
  | .apply pid t late =>
    if t = s.openStep pid then s.updDomain pid fun d => { d with phase := .apply, late := late } else s
  | .held pid t => if t = s.openStep pid then s.updDomain pid fun d => { d with phase := .held } else s
  | .abort pid t => s.abortStep pid t
  | .finished pid t late => s.updDomain pid fun d => { d with
      reported := d.reported ++ [(t, 2 ^ 23 + chip.toNat)], late := d.late || late }
  | .commit pid t late => s.updDomain pid fun d => { d with reported := d.reported ++ [(t, 2 ^ 25)], late := late }
  | .member pid live => s.updDomain pid fun d => { d with
      live := (d.live.filter fun c => c != chip) ++ (if live then [chip] else []) }
  | .replay w r ep => s.redlvHere w r ep
  | .replayed r st => s.finishRedlv r st
  | .hold pid f true => (s.updDomain pid fun d => { d with faults := d.faults ++ [f] }).gateway chip 3 (.holdKnown pid f)
  | .hold pid f false => s.updDomain pid fun d => { d with faults := dropFirst (fun g => g == f) d.faults }
  | .holdKnown pid f => s.holdKnown pid f
  | .decision r => s.updDomain r.pid fun d => { d with decisions := d.decisions ++ [r] }
  | .decided r st => s.answerDecision r st
  | _ => s

end State

/-! ## The events -/

/-- The report of a core that has arrived at the open step, when R97 holds (R97, R246, R272). -/
def reportCore (s : State) (core : Nat) (pid : BitVec 16) (late : Bool) : State :=
  let t := s.openStep pid
  let s := s.updDomain pid fun d => { d with reported := d.reported ++ [(t, core)], late := late }
  let s := s.updCore core fun k => { k with
    arrived := k.arrived.filter fun x => x.toNat != t, late := k.late.filter fun x => x.toNat != t }
  s.boundary pid

/-- ARRIVAL_REPORT: the arrival of a core at the open step is reported to its domain once its stores and reads are settled
(R97). A retired core arrives without STEP (R246), and is late when its stores and reads are not (R114); a core that a trip has reset is reported by its die (R272). A core
whose cluster is IDLE or OFF does not arrive (R266). -/
def execArrivalReport (core : Nat) (s : State) : Out :=
  let k := s.core core
  match s.domains.find? fun e => e.2.ghosts.any fun g => g.2.1 == core && decide ((g.1 : Int) = e.2.c + 1) with
  | some e =>
    let pid := BitVec.ofNat 16 e.1
    let t := s.openStep pid
    if s.settled core pid (BitVec.ofNat 64 t) then
      .next ((s.updDomain pid fun d => { d with
        ghosts := d.ghosts.filter fun g => !(g.2.1 == core && g.1 == t), reported := d.reported ++ [(t, State.ghostReport core)],
        late := d.ghosts.any fun g => g.2.1 == core && g.1 == t && g.2.2 }).boundary pid)
    else .next s
  | none =>
    let t := s.openStep k.pid
    let step := BitVec.ofNat 64 t
    let member := k.joined.elim false fun j => decide (j.toNat ≤ t)
    if member && (k.arrived.contains step || k.ret) && !(s.domain k.pid).reported.contains (t, core)
        && (s.cluster (clusterOf core)).power == .on then
      if s.settled core k.pid step then .next (reportCore s core k.pid (k.late.contains step))
      else .next (if k.late.contains step then s else s.updCore core fun k => { k with late := k.late ++ [step] })
    else .next s

/-- APPLY_DONE: a station ends its apply and writes its held UNIQ stores (R110, R115); with the last one the chip is done
(R116). -/
def execApplyDone (pid : BitVec 16) (i : Nat) (s : State) : Out :=
  if (s.domain pid).applying.contains i then
    let s := s.updDomain pid fun d => { d with
      applying := d.applying.filter fun x => x != i, applied := d.applied ++ [i] }
    let s := s.writeHeld pid (s.openStep pid + 1) i
    .next (if s.chipApplied pid && !s.isRoot pid then s.gateway (s.rootChip pid) 3 (.finished pid (s.openStep pid) (s.stepLate pid)) else s)
  else .next s

/-- COMMIT_NOTICE: C of a domain goes on (R116). -/
def execCommitNotice (pid : BitVec 16) (s : State) : Out :=
  if s.mayCommit pid then
    let t := s.openStep pid
    let s := if s.isRoot pid then s.toTree pid (.commit pid t (s.stepLate pid)) else s
    .next ((s.commitStep pid).boundary pid)
  else .next s

/-- STEP_DECISION: the root of a domain takes the oldest decision that waits (R383). -/
def execStepDecision (s : State) : Out :=
  match s.domains.find? fun e => !e.2.decisions.isEmpty with
  | none => .next s
  | some e =>
    match e.2.decisions with
    | [] => .next s
    | r :: rest =>
      let s := s.updDomain (BitVec.ofNat 16 e.1) fun d => { d with decisions := rest }
      let (st, s) := s.settleDecision r
      .next (if r.origin = s.chip then s.answerDecision r st else s.gateway r.origin 3 (.decided r st))

end Sys2Proof.Machine
end

