-- ==== Sys2Proof/Machine/MapwExec.lean ====
section
/-! DEFINITION. Sys2Proof/Machine/MapwExec.lean: the base die executes MAPW (R83, R84, R343 to R346): checks against the
state that earlier MAPWs of the PID will leave, writes at once or at the boundary, and the retirement of a PID (R12). -/

namespace Sys2Proof.Machine

/-- The outcome of a check: 0, or a status with the die that refused (R345). -/
abbrev MapStatus := Nat × Option Nat

namespace State

/-! ## The state that earlier MAPWs of a PID will leave (R346) -/

/-- A word of a table or a map record as the deferred writes of a PID will leave it. -/
def futureWord (s : State) (pid : BitVec 16) (a : Nat) : Word :=
  (s.domain pid).deferred.foldl (fun w d =>
    match d with
    | .words ws => ((ws.find? fun x => x.1 == a).map (·.2)).getD w
    | _ => w) (s.gmem.word a)

/-- The entries of a station as the deferred writes of a PID will leave them. -/
def futureEntries (s : State) (pid : BitVec 16) (i : Nat) : List TEntry :=
  (s.domain pid).deferred.foldl (fun l d =>
    match d with
    | .entry st e remove =>
      if st.contains i then (if remove then l.filter fun y => !e.samePage y else putEntry e l) else l
    | _ => l) (s.station i).entries

/-- A word of the PID's map record as it will stand. -/
def futureMap (s : State) (pid : BitVec 16) (i : Nat) : Word := s.futureWord pid (mapRecordAt pid + 4 * i)

end State

/-! ## The image of an entry (R82, R83) -/

/-- The entry of an image. -/
def entryOf (w : List Word) : TEntry :=
  let g (i : Nat) : Word := w.getD i 0
  let e0 := g 0
  { pid := e0.extractLsb' 0 16, big := e0.getLsbD 17, mrg := e0.extractLsb' 18 4, rd := e0.getLsbD 22,
    wr := e0.getLsbD 23, rmt := e0.getLsbD 24, vpn := g 1, chip := (g 2).extractLsb' 0 22,
    frame := (g 3).extractLsb' 0 19, shadow := (g 4).extractLsb' 0 19, rdie := (g 4).extractLsb' 19 3 }

/-- Frames of a page. -/
def TEntry.frames (e : TEntry) : Nat := if e.big then 512 else 1

/-- A first frame at which no page of that size may lie: reserved frames, the frame of the map records, for 1 GiB the global
SRAM (R83), and frames that a sump has taken (R14, assumption 74). -/
def badFrame (s : State) (big : Bool) (f : Nat) : Bool :=
  f == 0x600FF || decide (0x60100 ≤ f) || (big && decide (0x60000 ≤ f + 511))
    || s.inSump f || (big && s.inSump (f + 511))

/-- The pages of two entries share a VA. -/
def TEntry.overlaps (a b : TEntry) : Bool :=
  let lo (e : TEntry) : Nat := if e.big then e.vpn.toNat / 512 * 512 else e.vpn.toNat
  decide (lo a < lo b + b.frames ∧ lo b < lo a + a.frames)

/-- The checks of R83 on an image that concern no station. -/
def entryBad (s : State) (w : List Word) : Bool :=
  let g (i : Nat) : Word := w.getD i 0
  let e := entryOf w
  let f := e.frame.toNat
  let sh := e.shadow.toNat
  (g 0).extractLsb' 25 7 != 0 || (g 2).extractLsb' 22 10 != 0 || (g 3).extractLsb' 19 13 != 0
    || (g 4).extractLsb' 22 10 != 0 || (e.big && e.vpn.extractLsb' 0 9 != 0) || (e.big && f % 512 != 0)
    || decide (9 ≤ e.mrg.toNat) || (e.mrg == 8 && !(s.futureMap e.pid 7).getLsbD 1)
    || (if e.rmt then e.chip == s.chip || e.mrg != 0 || f != 0 || sh != 0
        else badFrame s e.big f || e.rdie != 0
          || (if e.mrg = 0 then
                badFrame s e.big sh || sh == f || State.homeOf sh != State.homeOf f
                  || decide (f < sh + e.frames ∧ sh < f + e.frames)
              else sh != 0))

/-- The stations that a MAPW names for a page (R81, R83). -/
def namedStations (dmask : Nat) (vpn : Word) : List Nat :=
  let va : BitVec 64 := (vpn.setWidth 64) <<< 21
  ((List.range 8).filter fun n => dmask.testBit n).map fun n => State.stationOf n va

/-- OP 0: the status of one station (R83, R345, R346). -/
def entryAt (s : State) (bad : Bool) (e : TEntry) (i : Nat) : Nat :=
  let l := s.futureEntries e.pid i
  if bad || l.any fun x => x.pid == e.pid && x.overlaps e && !x.samePage e then 1
  else if !(l.any e.samePage) && decide (65536 ≤ l.length) then 2
  else 0

/-- The first failing station of a list. -/
def firstFailure (f : Nat → Nat) : List Nat → MapStatus
  | [] => (0, none)
  | i :: r => if f i = 0 then firstFailure f r else (f i, some (i / 4))

/-! ## The other images (R91, R260, R344) -/

/-- OP 2: a map record breaks its form. -/
def recordBad (w : List Word) : Bool :=
  let g (i : Nat) : Word := w.getD i 0
  (g 1).extractLsb' 8 24 != 0 || (g 3).extractLsb' 8 24 != 0 || (g 4).extractLsb' 23 9 != 0
    || (g 5).extractLsb' 16 16 != 0 || (g 6).extractLsb' 22 10 != 0 || (g 7).extractLsb' 2 30 != 0
    || (g 0).extractLsb' 0 7 != 0 || (g 2).extractLsb' 0 7 != 0 || decide (4194304 < (g 4).toNat)

/-- OP 3: a group breaks its form. -/
def groupBad (pid : BitVec 16) (w : List Word) : Bool :=
  let g (i : Nat) : Word := w.getD i 0
  let n := ((g 2).extractLsb' 0 13).toNat
  (g 0).extractLsb' 12 20 != 0 || (g 1).extractLsb' 0 16 != pid || (g 1).extractLsb' 17 15 != 0
    || (g 2).extractLsb' 13 19 != 0 || n == 0 || decide (4096 < n) || (g 3).extractLsb' 0 3 != 0
    || (g 4).extractLsb' 8 24 != 0

/-- OP 4 and 5: a table image breaks its form (R345). -/
def tableBad (s : State) (pid : BitVec 16) (chips : Bool) (w : List Word) : Bool :=
  let g (i : Nat) : Word := w.getD i 0
  let n := (g 1).toNat
  let first := (g 0).toNat
  n == 0 || decide (64 < n) || !(s.futureMap pid 7).getLsbD 0
    || (if chips then
          (g 0).extractLsb' 22 10 != 0 || decide (((s.futureMap pid 4).extractLsb' 0 23).toNat < first + n)
            || (w.drop 2).any fun e => e.extractLsb' 22 9 != 0
        else (g 0).extractLsb' 16 16 != 0 || decide (40960 < first + n))

/-- The physical address of a table as it will stand: CTAB at word 0 of the record, KTAB at word 2 (R91). -/
def tableAt (s : State) (pid : BitVec 16) (i : Nat) : Nat :=
  (s.futureMap pid i).toNat + 2 ^ 32 * ((s.futureMap pid (i + 1)).extractLsb' 0 8).toNat

/-- Successive words from an address. -/
def wordsFrom (a : Nat) (l : List Word) : List (Nat × Word) := (List.range l.length).map fun i => (a + 4 * i, l.getD i 0)

/-! ## Writes -/

/-- A change waits for the boundary of the PID's domain, or takes effect at once when the domain has no member (R346,
R436). -/
def deferChange (s : State) (pid : BitVec 16) (d : Deferred) : State :=
  if s.anyMember pid then s.updDomain pid fun x => { x with deferred := x.deferred ++ [d] } else s.changeNow pid d

/-- An entry of the page of another waits for a boundary at a station. -/
def awaitsEntry (s : State) (i : Nat) (e : TEntry) : Bool :=
  (s.domain e.pid).deferred.any fun
    | .entry st x _ => st.contains i && x.pid == e.pid && x.overlaps e
    | _ => false

/-- OP 0 and OP 1: at stations where the VA is unmapped an entry takes effect at once, elsewhere at the boundary (R84,
R346). A station that is full until an earlier deferred removal takes the entry with that removal (assumption 73), and an
entry that follows a deferred one of its page takes effect with it, so that the later one stands. -/
def changeEntry (s : State) (stations : List Nat) (e : TEntry) (remove : Bool) : State :=
  let unmapped (i : Nat) : Bool := !((s.station i).entries.any fun x => x.pid == e.pid && x.overlaps e)
    && decide ((s.station i).entries.length < 65536) && !awaitsEntry s i e
  let (now, later) := if remove then ([], stations) else stations.partition unmapped
  let s := s.writeEntry now e false
  if later.isEmpty then s else deferChange s e.pid (.entry later e remove)

/-- The outcome of a MAPW with its image (R345). -/
def mapwRun (s : State) (r : MapwReq) (w : List Word) : MapStatus × State :=
  let op := (r.ctl.extractLsb' 0 3).toNat
  let dmask := (r.ctl.extractLsb' 3 8).toNat
  let pid : BitVec 16 := r.ctl.extractLsb' 16 16
  let g (i : Nat) : Word := w.getD i 0
  if pid ≠ r.by_.pid ∧ !s.isSup r.by_.pid then ((3, none), s)
  else if op ≤ 1 then
    if (g 0).extractLsb' 0 16 ≠ pid then ((5, none), s)
    else
      let e := entryOf w
      let stations := namedStations dmask (g 1)
      if op = 0 then
        let bad := entryBad s w
        let st := firstFailure (entryAt s bad e) stations
        (st, if st.1 = 0 then changeEntry s stations e (!(g 0).getLsbD 16) else s)
      else
        let bad := (g 0).extractLsb' 18 14 != 0 || (g 0).getLsbD 16
        let st := firstFailure (fun i =>
          if bad then 1 else if (s.futureEntries pid i).any e.samePage then 0 else 4) stations
        (st, if st.1 = 0 then changeEntry s stations e true else s)
  else if op = 2 then
    if recordBad w then ((5, none), s)
    else
      let v := (g 7).extractLsb' 0 1
      let sup := (s.mapWord pid 7).extractLsb' 1 1
      ((0, none), deferChange s pid (.words (wordsFrom (mapRecordAt pid) (w.take 7 ++ [(sup ++ v).setWidth 32]))))
  else if op = 3 then
    if groupBad pid w then ((5, none), s)
    else ((0, none), deferChange s pid (.group (4096 * pid.toNat + (g 0).toNat) ((w.drop 1).take 4)))
  else
    let chips := op == 5
    if tableBad s pid chips w then ((5, none), s)
    else ((0, none), deferChange s pid
      (.words (wordsFrom (tableAt s pid (if chips then 2 else 0) + 4 * (g 0).toNat) (w.drop 2))))

/-- MAPW_EXECUTE: the base die takes the oldest MAPW request, checks it, writes it and answers it (R345). -/
def execMapwExecute (s : State) : Out :=
  match s.mapws with
  | [] => .next s
  | r :: rest =>
    let s := { s with mapws := rest }
    let ((st, die), s) := match r.image with
      | none => ((6, none), s)
      | some w => mapwRun s r w
    .next (match r.hw with
      | none => s
      | some hw => s.answerTo .distributor unitDistributor r.by_.pid r.by_.lcore r.by_.rank r.by_.tag hw
          [w32 st, (die.map w32).getD 0xFFFFFFFF])

/-! ## Retirement of a PID (R12, R239) -/

/-- A parked entry belongs to a process. -/
def Parked.ofPid (pid : BitVec 16) : Parked → Bool
  | .trigger m => m.pid == pid
  | .request p _ _ _ => p == pid

/-- PID_RETIRE: the PID is no longer live, and its parked entries are freed (R12, R239). One that still holds clusters or queued
launches may be retired as well (assumption 58). -/
def execPidRetire (pid : BitVec 16) (s : State) : Out :=
  .next ((List.range 8).foldl (fun (s : State) i => s.updDie i fun x => { x with
    parked := x.parked.filter fun e => !e.2.ofPid pid }) { s with live := s.live.filter fun p => p != pid })

end Sys2Proof.Machine
end

