-- ==== Sys2Proof/Machine/Governor.lean ====
section
/-! DEFINITION. Sys2Proof/Machine/Governor.lean: the cycles and charge of a matrix command (R189, R270), and the power
governor of a die (R270, R271). -/

namespace Sys2Proof.Machine

/-! ## Cycles and charge -/

/-- The scratchpad lines that hold the rows of a load or a drain (R178), before rotation, which moves words within
lines. -/
def rowLines (w w0 w1 : Word) : List Nat :=
  let g := descr w0 w1
  let bytes := 8 * codeWidth (wOtype w)
  ((List.range (wRows w)).flatMap fun j =>
    let a := g.off + j * g.rpitch * 16
    (List.range ((a + bytes - 1) / 128 - a / 128 + 1)).map fun i => a / 128 + i).eraseDups

/-- Twice the cycles per k of an input type (R182). -/
def cycles2 (itype : Nat) : Nat :=
  if itype = 0 then 16 else if itype = 1 ∨ itype = 2 then 4 else if itype = 5 ∨ itype = 12 then 1
  else if itype = 14 then 64 else 2

/-- Steps from one number to another. -/
def gap (a b : Nat) : Nat := (a - b) + (b - a)

/-- Cycles of a transfer through the core mesh between two cores (R187): one for each hop, twelve more for each die edge that
it crosses. -/
def meshCycles (a b : Nat) : Nat :=
  gap (coreX a) (coreX b) + gap (coreY a) (coreY b)
    + 12 * (gap (coreX a / 64) (coreX b / 64) + gap (coreY a / 80) (coreY b / 80))

/-- N, the nominal cycles of a matrix command (R189). -/
def MxCmd.cycles (c : MxCmd) : Nat :=
  match c.op with
  | .cfg => if fld c.w 3 2 = 2 then 16 else 4
  | .ld => 16 + (rowLines c.w c.a0 c.a1).length
  | .mul => 32 + wK c.w * cycles2 (wItype c.w) / 2
  | .dr => 16 + (rowLines c.w c.a0 c.a1).length
  | .dra => 16 + 2 * wRows c.w
      + meshCycles (coreOfCluster (clusterOf c.by_.core) 0) (coreOfCluster (clusterOf c.peer) 0)

/-- u, in pJ per cycle (R270). -/
def MxCmd.power (c : MxCmd) : Nat :=
  match c.op with
  | .mul =>
    let t := wItype c.w
    if t = 1 ∨ t = 2 then 430 else if t = 0 ∨ t = 14 then 380 else 460
  | _ => 120

/-- The charge of a command in pJ (R270). -/
def MxCmd.charge (c : MxCmd) : Nat := c.cycles * c.power

/-! ## The governor -/

/-- A cluster in a power state from a cycle on: its arithmetic clock stands still in IDLE and OFF (R52, R266). -/
def Cluster.clocked (x : Cluster) (p : Power) (now : Nat) : Cluster :=
  if p = .on then { x with power := p, stopped := x.stopped + x.stoppedAt.elim 0 (now - ·), stoppedAt := none }
  else { x with power := p, stoppedAt := x.stoppedAt.or (some now) }

namespace State

/-- Clusters of a die in a power state other than OFF. -/
def powered (s : State) (die : Nat) (p : Power) : Nat :=
  (s.clusters.filter fun e => dieOfCluster e.1 == die && e.2.power == p).length

/-- r, the refill of a die's credit in pJ per cycle (R270). -/
def rate (s : State) (die : Nat) : Nat :=
  ((125 * ((s.host.watt.toNat : Int) - 300) - 80 * s.powered die .on - 20 * s.powered die .idle) * 10 / 13).toNat

/-- G as it stands now (R270). -/
def credit (s : State) (die : Nat) : Int :=
  let d := s.die die
  let r := s.rate die
  min (4096 * r : Int) (d.credit + (r * (s.now - d.settled) : Nat))

/-- Settle the credit of a die: done before its rate changes and at each grant. -/
def settle (s : State) (die : Nat) : State :=
  let g := s.credit die
  s.updDie die fun d => { d with credit := g, settled := s.now }

/-- Settle the credit of every die. -/
def settleAll (s : State) : State := (List.range 8).foldl (fun s d => s.settle d) s

/-- Cap the credit after a change of the rate (R270). -/
def capCredit (s : State) (die : Nat) : State :=
  let r := s.rate die
  s.updDie die fun d => { d with credit := min (4096 * r : Int) d.credit }

/-- Put a cluster into a power state; the credit of its die is settled first. -/
def setPower (s : State) (cl : Nat) (p : Power) : State :=
  let die := dieOfCluster cl
  ((s.settle die).updCluster cl fun x => x.clocked p s.now).capCredit die

/-- Cycles in which a cluster's WLV has been 1 (R362). -/
def wlvTime (s : State) (cl : Nat) : Nat :=
  let x := s.cluster cl
  x.wlvCycles + (x.wlvSince.elim 0 fun t => s.now - t)

/-- The charge of a cluster's head command while it waits for leave, else 0 (R362). -/
def waitingCharge (s : State) (cl : Nat) : Nat :=
  let x := s.cluster cl
  match x.wlvSince, x.mxq with
  | some _, .cmd c :: _ => c.charge
  | _, _ => 0

end State

end Sys2Proof.Machine
end

