-- ==== Sys2Proof/Machine/MatrixEngine.lean ====
section
/-! DEFINITION. Sys2Proof/Machine/MatrixEngine.lean: what the matrix engine does with its queue: leave (R189, R270),
loads, products, drains and drain-adds (R166 to R169, R179 to R187), residue checks and replays (R191), completions
(R190), and places that free (R188). -/

namespace Sys2Proof.Machine

/-! ## Tiles (R172) -/

/-- Element i = 64 m + n of a tile. -/
def Tile.val (t : Tile) (i : Nat) : Word := Tab.look 0 t.vals i

/-- A tile's values, from a function of the element. -/
def tileVals (f : Nat → Word) : Tab Word :=
  (List.range 4096).filterMap fun i =>
    let v := f i
    if v = 0 then none else some (i, v)

/-- Saturating sum of exclusion counts. -/
def addXcnt (a b : Nat) : BitVec 32 := BitVec.ofNat 32 (min (a + b) (2 ^ 32 - 1))

/-- The bit of row m. -/
def rowBit (m : Nat) : BitVec 64 := 1 <<< m

/-- The rows of a list as a mask. -/
def rowMask (rows : List Nat) : BitVec 64 := rows.foldl (fun x m => x ||| rowBit m) 0

/-- A tile of a cluster. -/
def Cluster.tile (x : Cluster) (t : Nat) : Tile := x.tiles[t % 8]'(Nat.mod_lt _ (by decide))

/-- Change a tile of a cluster. -/
def Cluster.updTile (x : Cluster) (t : Nat) (f : Tile → Tile) : Cluster :=
  { x with tiles := x.tiles.set (t % 8) (f (x.tile t)) (Nat.mod_lt _ (by decide)) }

/-- The tiles of the quadruple that holds a tile. -/
def quadOf (t : Nat) : List Nat := (List.range 4).map fun i => t / 4 * 4 + i

/-- A tile is one of a quadruple: all four have MODE 2. -/
def Cluster.isQuad (x : Cluster) (t : Nat) : Bool := (quadOf t).all fun i => (x.tile i).mode == 2

/-- The tiles that a command on a tile changes: the quadruple, or the tile. -/
def Cluster.group (x : Cluster) (t : Nat) : List Nat := if x.isQuad t then quadOf t else [t]

/-- Change every tile of a list. -/
def Cluster.updTiles (x : Cluster) (ts : List Nat) (f : Nat → Tile → Tile) : Cluster :=
  ts.foldl (fun (x : Cluster) t => x.updTile t (f t)) x

/-- A tile has the mode that a type asks for: 2 names a quadruple. -/
def Cluster.modeIs (x : Cluster) (t mode : Nat) : Bool :=
  if mode = 2 then x.isQuad t else (x.tile t).mode.toNat == mode

/-! ## Stored elements (R70, R144, R177) -/

/-- The scratchpad offset of the word that holds a bit of stored row r, rotated within its line (R70). -/
def Descr.wordAt (g : Descr) (r bit : Nat) : Nat :=
  let a := bit / 8
  a / 128 * 128 + 4 * ((a / 4 + g.rot * r) % 32)

/-- The words that hold the stored element (r, c) of panel p. -/
def Descr.elemWords (g : Descr) (w p r c : Nat) : List Nat :=
  let b := g.bit w p r c
  if w = 64 then [g.wordAt r b, g.wordAt r (b + 32)] else [g.wordAt r b]

/-- The line that holds the stored element (r, c) of panel p. -/
def Descr.elemLine (g : Descr) (w p r c : Nat) : Nat := g.bit w p r c / 1024

/-- Where the logical element (i, k) of an operand is stored: panel, row, column; kCols: k runs along the columns. -/
def storedAt (kCols : Bool) (i k : Nat) : Nat × Nat × Nat :=
  if kCols then (k / 64, i, k % 64) else (k / 64, k % 64, i)

namespace State

/-- The engine reads those words of the scratchpad that it has not read ahead, each once (R74); core is the issuing core. -/
def engineReads (s : State) (core : Nat) (offs : List Nat) : State :=
  let seen := (s.cluster (clusterOf core)).mxViews
  (offs.eraseDups.filter fun a => !seen.any fun v => v.addr == a).foldl (fun (s : State) a =>
    (s.readLocal core 0 unitMatrix (0x100000 + a)).1) s

/-- A word that the engine has read (R138): one that is uncorrectable has free bytes (R74, assumption 10). -/
def engineWord (s : State) (cl off : Nat) : Word :=
  let x := s.cluster cl
  match x.mxViews.find? fun v => v.addr == off with
  | some v => v.val
  | none =>
    match x.spad.err off with
    | some .uncorrectable =>
      Config.freeByte (s.free + off + 3) ++ Config.freeByte (s.free + off + 2) ++ Config.freeByte (s.free + off + 1)
        ++ Config.freeByte (s.free + off)
    | _ => x.spad.word off

/-- The free bytes that a command has drawn lie behind it. -/
def engineDone (s : State) : State := { s with free := s.free + spadBytes }

/-- Poison of a scratchpad line, as the engine has it. -/
def spadP (s : State) (cl line : Nat) : Bool := (s.cluster cl).spad.poisonSeen (s.cluster cl).mxViews line

/-- The bits of a stored element. -/
def elemBits (s : State) (cl : Nat) (g : Descr) (w p r c : Nat) : Nat :=
  match g.elemWords w p r c with
  | [a] => (s.engineWord cl a).toNat / 2 ^ (g.bit w p r c % 32) % 2 ^ w
  | [a, b] => (s.engineWord cl a).toNat + 2 ^ 32 * (s.engineWord cl b).toNat
  | _ => 0

end State

/-! ## Operands of MXMUL (R166, R177, R183) -/

/-- An operand: its descriptor, its element width, the way of k, K. -/
structure Operand where
  g : Descr
  w : Nat
  kCols : Bool
  k : Nat
  /-- Byte offset of the scales, and their bytes for each row. -/
  scales : Nat
  blocks : Nat

/-- An operand of an MXMUL command. -/
def operandOf (c : MxCmd) (b : Bool) : Operand :=
  let g := if b then descr c.b0 c.b1 else descr c.a0 c.a1
  let mx := isMx (wItype c.w)
  ⟨g, codeWidth (wItype c.w), if b then wTb c.w else !wTa c.w, wK c.w, g.off + wSoff c.w * 128,
    if mx then wK c.w / 32 else 0⟩

/-- The line of the logical element (i, k). -/
def Operand.line (o : Operand) (i k : Nat) : Nat :=
  let (p, r, c) := storedAt o.kCols i k
  o.g.elemLine o.w p r c

/-- The words of the operand and of its scales. -/
def Operand.words (o : Operand) : List Nat :=
  ((List.range 64).flatMap fun i => (List.range o.k).flatMap fun k =>
    let (p, r, c) := storedAt o.kCols i k
    o.g.elemWords o.w p r c)
  ++ (List.range (64 * o.blocks)).map fun j => (o.scales + j) / 4 * 4

/-- The lines of the scales of row i. -/
def Operand.scaleLines (o : Operand) (i : Nat) : List Nat :=
  (List.range o.blocks).map fun j => (o.scales + i * o.blocks + j) / 128

/-- The bits of the elements of row i, over k. -/
def Operand.row (o : Operand) (s : State) (cl i : Nat) : List Nat :=
  (List.range o.k).map fun k =>
    let (p, r, c) := storedAt o.kCols i k
    s.elemBits cl o.g o.w p r c

/-- The scale bytes of row i, over the blocks. -/
def Operand.scaleRow (o : Operand) (s : State) (cl i : Nat) : List Nat :=
  (List.range o.blocks).map fun j =>
    let a := o.scales + i * o.blocks + j
    (s.engineWord cl (a / 4 * 4)).toNat / 2 ^ (8 * (a % 4)) % 256

/-- The indices k that a poisoned line of an operand holds. -/
def Operand.poisonedK (o : Operand) (s : State) (cl : Nat) : List Nat :=
  (List.range o.k).filter fun k => (List.range 64).any fun i => s.spadP cl (o.line i k)

/-- Row i has an element in a poisoned line, with k not excluded. -/
def Operand.rowPoisoned (o : Operand) (s : State) (cl : Nat) (excl : List Nat) (i : Nat) : Bool :=
  (List.range o.k).any fun k => !excl.contains k && s.spadP cl (o.line i k)

/-! ## Products (R166, R167, R169) -/

/-- The exact value of an element of an input type (R143, R146; MXINT8 counts in units of 2^-6, R149). -/
def inputValue (itype bits : Nat) : XVal :=
  match itype with
  | 0 => Fmt.fp32.value bits
  | 1 => Fmt.bf16.value bits
  | 2 => Fmt.fp16.value bits
  | 3 => Fmt.e4m3.value bits
  | 4 => Fmt.e5m2.value bits
  | 5 => Fmt.e2m1.value bits
  | 10 => Fmt.e4m3.value bits
  | 11 => Fmt.e5m2.value bits
  | 12 => Fmt.e2m1.value bits
  | _ => (XVal.ofInt (Fmt.i8.intValue bits)).scale (-6)

/-- The exact sum of the products of a chunk: +0 for none; -0 only when every product is -0 (R166). -/
def chunkSum : List XVal → XVal
  | [] => .fin false 0 0
  | x :: r => r.foldl (fun a b => (XVal.add false a b).1) x

/-- Cut a list into chunks of n; fuel is the number of chunks. -/
def chunks {α : Type} (n : Nat) : Nat → List α → List (List α)
  | 0, _ => []
  | f + 1, l => l.take n :: chunks n f (l.drop n)

/-- The factor of two scale bytes; none when one is 0xFF. -/
def scaleExp (a b : Nat) : Option Int := if a = 255 ∨ b = 255 then none else some ((a : Int) + b - 254)

/-- One chunk added to the accumulator: s scaled, one rounding (R166). -/
def addChunk (acc : Word) (s : XVal) (sc : Option Int) : Word :=
  let s := match sc with
    | none => XVal.nan
    | some k => s.scale k
  (finish32 .rne (XVal.add false (fval acc) s)).1

/-- An element under R166: a and b over the k that are not excluded (none: excluded), the scale of each chunk. -/
def dotFloat (l : Nat) (old : Word) (ps : List (Option (XVal × XVal))) (sc : List (Option Int)) : Word :=
  let cs := chunks l (ps.length / l) ps
  (cs.zip sc).foldl (fun acc x =>
    addChunk acc (chunkSum (x.1.filterMap fun o => o.map fun p => (XVal.mul p.1 p.2).1)) x.2) old

/-- An element under R167. -/
def dotInt (old : Word) (ps : List (Option (Int × Int))) : Word :=
  wInt (old.toInt + (ps.filterMap fun o => o.map fun p => p.1 * p.2).sum)

/-- The sum of exact values. -/
def xsum (a b : XVal) : XVal := (XVal.add false a b).1

/-- One component of R169: the high and low parts after adding the exact product p. -/
def addParts (h lo : Word) (p : XVal) : Word × Word :=
  let c := (round32 .rne p).1
  let e : XVal := if (fval c).isFin then fval (round32 .rne (xsum p (fval c).neg)).1 else .fin false 0 0
  let (h', err, _) := twoSum h c
  (h', (round32 .rne (xsum (xsum (fval lo) (fval err)) e)).1)

/-- The four parts of a complex element: RH, RL, IH, IL. -/
abbrev Parts := Word × Word × Word × Word

/-- One k of R169. -/
def addComplex (q : Parts) (a b : XVal × XVal) : Parts :=
  let mul (x y : XVal) : XVal := (XVal.mul x y).1
  let pr := xsum (mul a.1 b.1) (mul a.2 b.2).neg
  let pi := xsum (mul a.1 b.2) (mul a.2 b.1)
  let r := addParts q.1 q.2.1 pr
  let i := addParts q.2.2.1 q.2.2.2 pi
  (r.1, r.2, i.1, i.2)

/-- The components of a CF32 element. -/
def complexOf (bits : Nat) : XVal × XVal := (fval (w32 (bits % 2 ^ 32)), fval (w32 (bits / 2 ^ 32)))

/-- The pairs of two operands' rows, none where k is excluded. -/
def pairsOf {α : Type} (excl : List Nat) (a b : List α) : List (Option (α × α)) :=
  ((List.range a.length).zip (a.zip b)).map fun x => if excl.contains x.1 then none else some x.2

namespace State

/-- MXMUL (R181 to R183) on a tile whose mode fits. -/
def runMul (s : State) (cl : Nat) (c : MxCmd) : State :=
  let t := wTile c.w
  let it := wItype c.w
  let a := operandOf c false
  let b := operandOf c true
  let s := s.engineReads c.by_.core (a.words ++ b.words)
  let excl := if wKx c.w then (List.range (wK c.w)).filter fun k =>
    (a.poisonedK s cl).contains k || (b.poisonedK s cl).contains k else []
  let rows := (List.range 64).filter fun m =>
    a.rowPoisoned s cl excl m || (a.scaleLines m).any fun l => s.spadP cl l
  let all := (List.range 64).any fun n =>
    b.rowPoisoned s cl excl n || (b.scaleLines n).any fun l => s.spadP cl l
  let mark (x : Tile) : Tile := { x with
    mask := if all then BitVec.allOnes 64 else x.mask ||| rowMask rows
    xcnt := addXcnt x.xcnt.toNat excl.length }
  let x := s.cluster cl
  let old (i e : Nat) : Word := if wAcc c.w then (x.tile (t + i)).val e else 0
  let ra := (List.range 64).map fun m => a.row s cl m
  let rb := (List.range 64).map fun n => b.row s cl n
  let rowOf (l : List (List Nat)) (i : Nat) : List Nat := l.getD i []
  let x' : Cluster :=
    if it = 14 then
      let el (e : Nat) : Parts :=
        (pairsOf excl (rowOf ra (e / 64)) (rowOf rb (e % 64))).foldl (fun (q : Parts) o =>
          match o with
          | some (u, v) => addComplex q (complexOf u) (complexOf v)
          | none => q) (old 0 e, old 1 e, old 2 e, old 3 e)
      x.updTiles (quadOf t) fun i y =>
        let part (q : Parts) : Word := if i % 4 = 0 then q.1 else if i % 4 = 1 then q.2.1 else if i % 4 = 2 then q.2.2.1 else q.2.2.2
        { mark y with vals := tileVals fun e => part (el e) }
    else if it = 7 then
      let el (e : Nat) : Word := dotInt (old 0 e) ((pairsOf excl (rowOf ra (e / 64)) (rowOf rb (e % 64))).map fun o =>
        o.map fun p => (Fmt.i8.intValue p.1, Fmt.i8.intValue p.2))
      x.updTile t fun y => { mark y with vals := tileVals el }
    else
      let l := if it = 0 then 4 else 16
      let sa := (List.range 64).map fun m => a.scaleRow s cl m
      let sb := (List.range 64).map fun n => b.scaleRow s cl n
      let sc (e : Nat) : List (Option Int) := (List.range (wK c.w / l)).map fun j =>
        if isMx it then scaleExp ((rowOf sa (e / 64)).getD (j * l / 32) 0) ((rowOf sb (e % 64)).getD (j * l / 32) 0)
        else some 0
      let el (e : Nat) : Word := dotFloat l (old 0 e) ((pairsOf excl (rowOf ra (e / 64)) (rowOf rb (e % 64))).map fun o =>
        o.map fun p => (inputValue it p.1, inputValue it p.2)) (sc e)
      x.updTile t fun y => { mark y with vals := tileVals el }
  (s.setCluster cl x').engineDone

/-! ## MXCFG and MXLD (R179, R180) -/

/-- MXCFG. -/
def runCfg (s : State) (cl : Nat) (w : Word) : State :=
  let t := wTile w
  let mode := fld w 3 2
  let new : Tile := { Tile.reset with mode := BitVec.ofNat 2 mode, pn := w.getLsbD 5 }
  s.updCluster cl fun x =>
    if mode = 2 then x.updTiles (quadOf t) fun _ _ => new
    else (if x.isQuad t then x.updTiles (quadOf t) fun _ _ => Tile.reset else x).updTile t fun _ => new

end State

/-- The words of row j of a load or a drain, with their element columns in order (R178). -/
def rowWords (w : Word) (g : Descr) (j : Nat) : List Nat :=
  (List.range (2 * codeWidth (wOtype w))).map fun i => g.wordAt j (g.bit 32 0 j i)

/-- The lines of row j. -/
def rowLinesOf (w : Word) (g : Descr) (j : Nat) : List Nat := ((rowWords w g j).map fun a => a / 128).eraseDups

namespace State

/-- MXLD (R180) into a tile whose mode fits. -/
def runLd (s : State) (cl : Nat) (c : MxCmd) : State :=
  let g := descr c.a0 c.a1
  let js := List.range (wRows c.w)
  let s := s.engineReads c.by_.core (js.flatMap fun j => rowWords c.w g j)
  let first := wFirst c.w
  let inRows (e : Nat) : Bool := decide (first ≤ e / 64 ∧ e / 64 < first + wRows c.w)
  let bad := rowMask ((js.filter fun j => (rowLinesOf c.w g j).any fun l => s.spadP cl l).map fun j => first + j)
  let rows := rowMask (js.map fun j => first + j)
  let word (e i : Nat) : Word :=
    if wOtype c.w = 14 then
      (if i % 4 = 0 then s.engineWord cl ((rowWords c.w g (e / 64 - first)).getD (2 * (e % 64)) 0)
       else if i % 4 = 2 then s.engineWord cl ((rowWords c.w g (e / 64 - first)).getD (2 * (e % 64) + 1) 0) else 0)
    else s.engineWord cl ((rowWords c.w g (e / 64 - first)).getD (e % 64) 0)
  let x := s.cluster cl
  let x' := x.updTiles (x.group (wTile c.w)) fun i y => { y with
    vals := tileVals fun e => if inRows e then word e i else y.val e
    mask := (y.mask &&& ~~~rows) ||| bad }
  (s.setCluster cl x').engineDone

end State

/-! ## Drains (R184 to R187) -/

/-- ACT on an exact value: ReLU, or a clamp to [0, 6]; a NaN stays (R185). -/
def actVal (act : Nat) (v : XVal) : XVal :=
  match v with
  | .nan => .nan
  | .inf neg => if act = 0 then v else if neg then .fin false 0 0 else if act = 2 then .fin false 6 0 else v
  | .fin neg m _ =>
    if act = 0 then v
    else if neg || m == 0 then .fin false 0 0
    else if act = 2 && (match (XVal.add false v (.fin true 6 0)).1 with
        | .fin n k _ => !n && k != 0
        | _ => false) then .fin false 6 0
    else v

/-- v of a drained element of a real tile: scaled, then ACT. -/
def drainVal (w : Word) (mode : Nat) (x : Word) : XVal :=
  actVal (wAct w) ((if mode = 1 then XVal.ofInt x.toInt else fval x).scale (wScale w))

/-- The components of v of a drained element of a quadruple: an exact sum of 0 from opposite signs has the sign that the
rounding mode gives it (R153). -/
def drainPair (w : Word) (rnd : Rnd) (x : Cluster) (t e : Nat) : XVal × XVal :=
  let part (i : Nat) : XVal := fval ((x.tile (t + i)).val e)
  let sum (a b : XVal) : XVal := (XVal.add (rnd == .rdn) a b).1
  ((sum (part 0) (part 1)).scale (wScale w), (sum (part 2) (part 3)).scale (wScale w))

/-- The format of an output code. -/
def outFmt (code : Nat) : Fmt :=
  match code with
  | 0 => .fp32 | 1 => .bf16 | 2 => .fp16 | 3 => .e4m3 | 4 => .e5m2 | 5 => .e2m1 | 6 => .i32 | _ => .i8

/-- Convert a drained value (R185): an INT32 value to an integer format rounds first, then wraps or clamps. -/
def drainConvert (f : Fmt) (mode : Nat) (rnd : Rnd) (sat : Bool) (v : XVal) (draw : Nat) : Rounded :=
  if mode = 1 ∧ f.isInt then
    match v with
    | .fin neg m e =>
      let (z, _, drew) := roundInt rnd neg m e draw
      { intToInt f sat z with drew := drew }
    | _ => ⟨0, 0, false⟩
  else if f.isInt then toIntFmt f rnd v draw
  else toFloatFmt f rnd sat v draw

/-- The generator's bits that a conversion uses (R155). -/
def drawBits (x : BitVec 64) : Nat := (genDraw x).toNat / 2 ^ 32

/-- The elements of a drained row: bits and whether v or the output is a NaN; draws in element order (R157). A CF32 element
takes a draw for each component that is inexact, the real one first: R157 speaks of one draw for an element, R155 of one for
each rounded value (assumption 76). -/
def drainRow (f : XVal → Nat → Rounded) (nan : Nat → Bool) : List XVal → BitVec 64 → List (Nat × Bool) × BitVec 64
  | [], x => ([], x)
  | v :: r, x =>
    let q := f v (drawBits x)
    let (l, y) := drainRow f nan r (if q.drew then genDraw x else x)
    ((q.bits, v.isNan || nan q.bits) :: l, y)

/-- The rows of a drain, one after another. -/
def drainRows (f : XVal → Nat → Rounded) (nan : Nat → Bool) : List (List XVal) → BitVec 64 →
    List (List (Nat × Bool)) × BitVec 64
  | [], x => ([], x)
  | r :: rs, x =>
    let (l, y) := drainRow f nan r x
    let (ls, z) := drainRows f nan rs y
    (l :: ls, z)

/-- The bits of elements of a width packed into words (R144). -/
def packWords (w : Nat) (l : List Nat) : List Word :=
  let n := 32 / w
  (List.range (l.length / n)).map fun i =>
    w32 (((List.range n).map fun j => l.getD (n * i + j) 0 * 2 ^ (w * j)).sum)

/-- What a drain writes of a line: words and sideband (R71, R186). -/
def drainLine (line : Nat) (ws : List (Nat × Word)) (p : Bool) : EngLine :=
  let here := ws.filter fun x => x.1 / 128 == line
  ⟨0, line, here, some ((here.map fun x => x.1).eraseDups.length == 32, p)⟩

namespace State

/-- A drain writes its words: row by row, through its descriptor. -/
def drainWrite (s : State) (cl : Nat) (c : MxCmd) (rows : List (List Word)) (mask : BitVec 64) : State :=
  let g := descr c.a0 c.a1
  let js := List.range (wRows c.w)
  let ws := js.flatMap fun j => (rowWords c.w g j).zip (rows.getD j [])
  let lines := (js.flatMap fun j => rowLinesOf c.w g j).eraseDups
  s.engWrite cl false (lines.map fun l =>
    drainLine l ws (js.any fun j => (rowLinesOf c.w g j).contains l && mask.getLsbD (wFirst c.w + j)))

/-- The exact values of the drained rows of a tile. -/
def drainVals (s : State) (cl : Nat) (w : Word) (rnd : Rnd) : List (List XVal) :=
  let x := s.cluster cl
  let t := wTile w
  (List.range (wRows w)).map fun j =>
    let m := wFirst w + j
    if wOtype w = 14 then (List.range 64).flatMap fun n =>
      let (r, i) := drainPair w rnd x t (64 * m + n)
      if r.isNan || i.isNan then [.nan, .nan] else [r, i]
    else (List.range 64).map fun n => drainVal w (x.tile t).mode.toNat ((x.tile t).val (64 * m + n))

/-- PN marks rows of the tile or of the quadruple (R172, R185). -/
def markRows (s : State) (cl t : Nat) (rows : List Nat) : State :=
  s.updCluster cl fun x =>
    if (x.tile t).pn then x.updTiles (x.group t) fun _ y => { y with mask := y.mask ||| rowMask rows } else x

/-- MXDR (R185, R186) from a tile whose mode fits. The mode and saturation of MDX round a CF32 quadruple too, as R185 says for
every drain, though R169 names RNE for it (assumption 76). -/
def runDr (s : State) (cl : Nat) (c : MxCmd) : State :=
  let t := wTile c.w
  let mode := ((s.cluster cl).tile t).mode.toNat
  let f : Fmt := if wOtype c.w = 14 then .fp32 else outFmt (wOtype c.w)
  let nan (b : Nat) : Bool := !f.isInt && (f.value b).isNan
  let (rows, gen) := drainRows (drainConvert f mode c.rnd c.sat) nan (s.drainVals cl c.w c.rnd)
    (s.cluster cl).gen
  let marked := (List.range rows.length).filterMap fun j =>
    if (rows.getD j []).any fun x => x.2 then some (wFirst c.w + j) else none
  let s := (s.updCluster cl fun x => { x with gen := gen }).markRows cl t marked
  s.drainWrite cl c (rows.map fun r => packWords f.width (r.map fun x => x.1)) ((s.cluster cl).tile t).mask

/-- What MXDRA carries for one element (R187). -/
def addVal (otype mode : Nat) (v : XVal) : AddVal :=
  if otype = 0 then .fp v
  else .int (w32 (drainConvert .i32 mode .rne false v 0).bits)

/-- MXDRA at its own engine (R187): rows marked, and the add on its way. -/
def runDra (s : State) (cl : Nat) (c : MxCmd) : State :=
  let t := wTile c.w
  let vs := s.drainVals cl c.w .rne
  let marked := (List.range vs.length).filterMap fun j =>
    if (vs.getD j []).any XVal.isNan then some (wFirst c.w + j) else none
  let s := s.markRows cl t marked
  let x := (s.cluster cl).tile t
  { s with adds := s.adds ++ [⟨c, vs.map fun r => r.map fun v => addVal (wOtype c.w) x.mode.toNat v,
      x.mask &&& rowMask ((List.range (wRows c.w)).map fun j => wFirst c.w + j), x.xcnt⟩] }

/-- A drain-add applied to a peer tile whose mode fits (R187). -/
def runAdd (s : State) (cl : Nat) (a : DrainAdd) : State :=
  let first := wFirst a.cmd.w
  s.updCluster cl fun x => x.updTile (wPeer a.cmd.w) fun y => { y with
    vals := tileVals fun e =>
      let v := y.val e
      if first ≤ e / 64 ∧ e / 64 < first + a.rows.length then
        match (a.rows.getD (e / 64 - first) [])[e % 64]? with
        | some (.fp z) => (finish32 .rne (XVal.add false (fval v) z)).1
        | some (.int w) => v + w
        | none => v
      else v
    mask := y.mask ||| a.mask
    xcnt := addXcnt y.xcnt.toNat a.xcnt.toNat }

/-! ## Completion, replays, places (R188, R190, R191) -/

/-- The end of a matrix command: its completion, or without e event 35 (R190), which carries the command's PID and tag
(assumption 97). -/
def mxComplete (s : State) (c : MxCmd) (status : Nat) (t : Option Tile) : State :=
  let words : List Word := match t with
    | some t => [w32 status, t.xcnt, t.mask.extractLsb' 0 32, t.mask.extractLsb' 32 32]
    | none => [w32 status, 0, 0, 0]
  match c.hw with
  | some hw => s.completion c.by_ hw words
  | none => if 2 ≤ status then s.coreEvent c.by_.core ⟨0, unitMatrix, c.by_.pid, c.by_.tag⟩ 35 (w32 status) c.w else s

/-- The opcode of a matrix command on page 3. -/
def mxOpcode : MxOp → Nat
  | .cfg => 0 | .ld => 1 | .mul => 2 | .dr => 3 | .dra => 4

/-- Replays are exhausted (R191): the tiles are restored and poisoned, a fault record goes out. -/
def mxFail (s : State) (cl : Nat) (c : MxCmd) (ts : List Nat) : State :=
  (s.updCluster cl fun x => x.updTiles ts fun _ y => { y with mask := BitVec.allOnes 64 }).coreReport c.by_.core false
    { Report.base 14 1 c.by_.pid c.by_.tag with unit := unitMatrix, info0 := c.w, info1 := w32 (mxOpcode c.op) }

/-- Replays of a command (R191): whether it passes at last, with REPL counted. limit is MXRETRY. -/
def residue (s : State) (cl limit : Nat) : Bool × State :=
  let n := (s.cluster cl).mxMiss
  if n ≤ limit then (true, s.updCluster cl fun x => { x with mxMiss := 0, repl := x.repl + w32 n })
  else (false, s.updCluster cl fun x => { x with mxMiss := n - (limit + 1), repl := x.repl + w32 limit })

/-- The words that a failed drain leaves: no result, so free (assumption 10). -/
def failedWords (s : State) (cl : Nat) (c : MxCmd) : State :=
  let g := descr c.a0 c.a1
  let rows := (List.range (wRows c.w)).map fun j => (rowWords c.w g j).map fun a =>
    Config.freeByte (s.free + a + 3) ++ Config.freeByte (s.free + a + 2) ++ Config.freeByte (s.free + a + 1)
      ++ Config.freeByte (s.free + a)
  (s.drainWrite cl c rows (BitVec.allOnes 64)).engineDone

/-- The mode that a command asks of its tile; none for any. -/
def mxMode (c : MxCmd) (mode : Nat) : Bool :=
  match c.op with
  | .cfg => true
  | .ld => mode == (if wOtype c.w = 0 then 0 else if wOtype c.w = 6 then 1 else 2)
  | .mul => mode == (if wItype c.w = 14 then 2 else if wItype c.w = 7 then 1 else 0)
  | _ => if mode = 0 then decide (wOtype c.w ≤ 7) else if mode = 1 then [0, 1, 6, 7].contains (wOtype c.w)
         else wOtype c.w == 14

/-- The tile's mode fits a command; a quadruple is its four tiles (R172). -/
def mxFits (x : Cluster) (c : MxCmd) : Bool :=
  let t := wTile c.w
  let m := (x.tile t).mode.toNat
  mxMode c m && (c.op == .cfg || m != 2 || x.isQuad t)

/-- A command whose replays are exhausted has read its operands and taken its draws before its first check (R74, R157, R191;
assumption 75); its tiles are as before. -/
def mxSpent (s : State) (cl : Nat) (c : MxCmd) : State :=
  let tiles := (s.cluster cl).tiles
  let s := match c.op with
    | .ld => s.runLd cl c
    | .mul => s.runMul cl c
    | .dr => s.runDr cl c
    | _ => s
  s.updCluster cl fun x => { x with tiles := tiles, mxLate := [] }

/-- The end of a command that has run (R190): its completion, once its writes have performed (R131). Those of a late turn
perform afterwards, and the command stays at the head. -/
def mxEnded (s : State) (cl : Nat) (c : MxCmd) (status : Nat) : State :=
  if s.cur.late && c.op == .dr then s.updCluster cl fun x => { x with mxDone := some (.writes status) }
  else s.mxComplete c status (if c.op = .dra then none else some ((s.cluster cl).tile (wTile c.w)))

/-- A command runs to its end: its effect, replays, completion (R179 to R191). MXRETRY is that of the issuing core: R191 does
not say whose (assumption 75). -/
def runMatrix (s : State) (cl : Nat) (c : MxCmd) : State :=
  let t := wTile c.w
  if !mxFits (s.cluster cl) c then s.mxComplete c 2 (if c.op = .dra then none else some ((s.cluster cl).tile t))
  else
    let (pass, s) := if c.op = .cfg then (true, s) else s.residue cl (s.core c.by_.core).mxretry.toNat
    if pass then
      match c.op with
      | .cfg => (s.runCfg cl c.w).mxEnded cl c 0
      | .ld => (s.runLd cl c).mxEnded cl c 0
      | .mul => (s.runMul cl c).mxEnded cl c 0
      | .dr => (s.runDr cl c).mxEnded cl c 0
      | .dra => (s.runDra cl c).updCluster cl fun x => { x with mxDone := some .transfer }
    else
      let s := (s.mxSpent cl c).mxFail cl c ((s.cluster cl).group t)
      let s := if c.op = .dr then s.failedWords cl c else s
      s.mxEnded cl c 1

/-- A place of a matrix queue has freed (R188): a drain-add that waits first takes it; a release goes on by itself. -/
def mxAdmit (s : State) (cl : Nat) : State :=
  s.updCluster cl fun x =>
    match x.mxWait with
    | .add a :: r => if x.mxq.length < 32 then { x with mxq := x.mxq ++ [.add a], mxWait := r } else x
    | _ => x

/-- The head of a matrix queue leaves: places are given, the next head asks for leave. -/
def mxPop (s : State) (cl : Nat) : State :=
  ((s.updCluster cl fun x => { x with
    mxq := x.mxq.tail, mxRun := false, mxDone := none, mxViews := [], mxLate := [] }).mxAdmit cl).askLeave cl

/-- The scratchpad words that a command reads. -/
def mxReads (c : MxCmd) : List Nat :=
  match c.op with
  | .mul => (operandOf c false).words ++ (operandOf c true).words
  | .ld => (List.range (wRows c.w)).flatMap fun j => rowWords c.w (descr c.a0 c.a1) j
  | _ => []

/-- The engine reads a word ahead for its head command, which has its leave (R129, R138): one that holds no error. -/
def mxReadAhead (s : State) (cl off : Nat) : State :=
  let x := s.cluster cl
  match x.mxq with
  | .cmd c :: _ =>
    if x.mxRun && x.mxDone.isNone && (x.spad.err off).isNone && (mxReads c).contains off
        && !(x.mxViews.any fun v => v.addr == off) then
      s.updCluster cl fun x => { x with mxViews := x.mxViews ++ [⟨off, x.spad.word off, (x.spad.line (off / 128)).p⟩] }
    else s
  | _ => s

end State

/-! ## Events -/

/-- LEAVE_GRANT: the die's governor grants the head of its queue (R189, R270, R271). -/
def execLeaveGrant (die : Nat) (s : State) : Out :=
  let d := s.die die
  match d.leaveQ with
  | [] => .next s
  | cl :: r =>
    let x := s.cluster cl
    let charge := s.waitingCharge cl
    if d.warn || s.rate die = 0 || x.power != .on
        || decide (s.credit die < (min charge (4096 * s.rate die) : Nat)) then .next s
    else
      let s := (s.settle die).updDie die fun d => { d with credit := d.credit - charge, leaveQ := r }
      .next (s.updCluster cl fun x => { x with
        mxRun := true, wlvCycles := x.wlvCycles + (x.wlvSince.elim 0 fun t => s.now - t), wlvSince := none })

/-- MATRIX_COMMAND_END: the head command, which has its leave or needs none, runs to its end (R189, R190). One whose writes were
still to perform ends with the last of them; MXDRA holds the engine until its transfer has ended (R187). -/
def execMatrixCommandEnd (cl : Nat) (s : State) : Out :=
  let x := s.cluster cl
  match x.mxq with
  | .cmd c :: _ =>
    if x.power == .on && (x.mxRun || c.op == .cfg) then
      match x.mxDone with
      | some .transfer => .next s
      | some (.writes st) =>
        .next (((s.engFlush cl false x.mxLate.length).mxComplete c st (some ((s.cluster cl).tile (wTile c.w)))).mxPop cl)
      | none =>
        let s := s.runMatrix cl c
        .next (if (s.cluster cl).mxDone.isSome then s else s.mxPop cl)
    else .next s
  | _ => .next s

/-- The outbound transfer of an MXDRA has ended: its engine is free (R187). -/
def transferEnded (s : State) (c : MxCmd) : State :=
  let cl := clusterOf c.by_.core
  let x := s.cluster cl
  if x.mxDone == some .transfer && x.mxq.head? == some (.cmd c) then s.mxPop cl else s

/-- DRAIN_ADD_ARRIVAL: a drain-add reaches its peer, which refuses it or queues it (R187, R188); its own engine goes on. -/
def execDrainAddArrival (i : Nat) (s : State) : Out :=
  match takeAt s.adds i with
  | none => .next s
  | some (a, rest) =>
    let s := { s with adds := rest }
    let cl := clusterOf a.cmd.peer
    let x := s.cluster cl
    if x.power == .off || (s.core (coreOfCluster cl 0)).pkey != a.cmd.peerKey then 
      .next (transferEnded (s.mxComplete a.cmd 3 none) a.cmd)
    else if x.mxq.length < 32 ∧ x.mxWait.isEmpty then
      .next (transferEnded ((s.updCluster cl fun x => { x with mxq := x.mxq ++ [.add a] }).askLeave cl) a.cmd)
    else .next (transferEnded (s.updCluster cl fun x => { x with mxWait := x.mxWait ++ [.add a] }) a.cmd)

/-- DRAIN_ADD_APPLY: the drain-add at the head of a queue is applied, or its tile's mode refuses it (R187, R190). MXRETRY is
that of the issuing core (assumption 75). -/
def execDrainAddApply (cl : Nat) (s : State) : Out :=
  let x := s.cluster cl
  match x.mxq with
  | .add a :: _ =>
    if x.power != .on then .next s
    else
      let t := wPeer a.cmd.w
      if (x.tile t).mode.toNat ≠ (if wOtype a.cmd.w = 0 then 0 else 1) then
        .next ((s.mxComplete a.cmd 4 none).mxPop cl)
      else
        let (pass, s) := s.residue cl (s.core a.cmd.by_.core).mxretry.toNat
        let s := if pass then s.runAdd cl a else s.mxFail cl a.cmd [t]
        .next ((s.mxComplete a.cmd (if pass then 0 else 1) (some ((s.cluster cl).tile t))).mxPop cl)
  | _ => .next s

end Sys2Proof.Machine
end

