-- ==== Sys2Proof/Machine/Reset.lean ====
section
/-! DEFINITION. Sys2Proof/Machine/Reset.lean: the reset of a cluster (R73, R172, R225, R268), and how a core leaves its
domain (R100, R227, R272). -/

namespace Sys2Proof.Machine

namespace State

/-! ## Port counts (R58) -/

/-- Words that a context of a core counts toward a port: in the neighbour's queue, in flight, and places on their way
back (R58). -/
def countOut (s : State) (core c : Nat) (d : Dir) : Nat :=
  match neighbour core d with
  | none => 0
  | some n =>
    ((s.ctx n c).inq[d.back.idx]).length
      + (s.portWords.filter fun w => w.ctx == 8 * n + c && w.dir == d.back).length
      + (s.portPlaces.filter fun p => p.ctx == 8 * core + c && p.dir == d).length

/-- Count the ports of a core's contexts anew. -/
def recount (s : State) (core : Nat) : State :=
  [1, 2, 3, 4, 5, 6, 7].foldl (fun (s : State) c =>
    let q : Vector Nat 4 := Vector.ofFn fun i => s.countOut core c (dirOf i.val)
    if q = (s.ctx core c).outq then s else s.updCtx core c fun x => { x with outq := q }) s

/-- The neighbours of a core. -/
def neighboursOf (core : Nat) : List Nat := [Dir.w, .e, .n, .s].filterMap fun d => neighbour core d

/-! ## Leaving a domain (R100, R227, R272) -/

/-- A core leaves its domain at a reset: its arrivals that are not reported yet are left to its die (R272), each with whether
its stores and reads delay it (R114); for a step that is not open yet that shows when it opens. -/
def leaveByReset (s : State) (core : Nat) : State :=
  let k := s.core core
  match k.joined with
  | none => s
  | some j =>
    let d := s.domain k.pid
    let due := [d.c + 1, d.c + 2].filter fun t =>
      decide ((j.toNat : Int) ≤ t ∧ t ≤ k.s.toNat) && !d.reported.contains (t.toNat, core)
    (s.updDomain k.pid fun d => { d with ghosts := d.ghosts ++ due.map fun t =>
        (t.toNat, core, decide (t = d.c + 1) && !s.settled core k.pid (BitVec.ofInt 64 t)) }).updCore core
      fun k => { k with joined := none }

/-- A core of a draining cluster may leave: its stores and reads are settled and C ≥ s - 1 (R227). -/
def mayLeave (s : State) (core : Nat) : Bool :=
  let k := s.core core
  k.joined.isNone || (s.settled core k.pid k.s && decide ((k.s.toNat : Int) - 1 ≤ (s.domain k.pid).c))

/-- The reports of the open step, or of the steps in hand, that a core still owes are delayed (R114, R266). -/
def markLate (s : State) (core : Nat) : State :=
  let k := s.core core
  let d := s.domain k.pid
  let due := [d.c + 1, d.c + 2].filter fun t =>
    (k.joined.elim false fun j => decide ((j.toNat : Int) ≤ t)) && decide (t ≤ k.s.toNat) && !d.reported.contains (t.toNat, core)
  s.updCore core fun k => { k with late := k.late ++ due.map (BitVec.ofInt 64) }

/-- A core of a draining cluster leaves: its arrival at s is reported (R100, R227). -/
def leaveByDrain (s : State) (core : Nat) : State :=
  let k := s.core core
  if k.joined.isNone then s
  else
    let t := k.s.toNat
    let s := if (s.domain k.pid).reported.contains (t, core) then s
      else s.updDomain k.pid fun d => { d with reported := d.reported ++ [(t, core)], late := k.late.contains k.s }
    (s.updCore core fun k => { k with joined := none, arrived := [], late := [] }).boundary k.pid

/-- A core of the cluster is retired (R246). -/
def anyRetired (s : State) (cl : Nat) : Bool := (coresOf cl).any fun c => (s.core c).ret

/-- A cluster is free: ON, with no launch and no retired core (R223, R246). -/
def isFree (s : State) (cl : Nat) : Bool :=
  let x := s.cluster cl
  x.power == .on && x.trans.isNone && x.placed.isNone && x.drain.isNone && !s.anyRetired cl

/-! ## The reset -/

/-- The contexts of a core after a cluster reset. -/
def clearCtxs (s : State) (core : Nat) : State :=
  [1, 2, 3, 4, 5, 6, 7].foldl (fun (s : State) c =>
    if s.ctx core c = Ctx.reset then s else s.setCtx core c { Ctx.reset with outq := (s.ctx core c).outq }) s

end State

/-- A core after a cluster reset; keep: its error state stays (R225). Its two message counters go on, so that identifiers
stay distinct (R16). -/
def Core.clear (k : Core) (keep : Bool) : Core :=
  let r := { Core.reset with seq := k.seq, farSeq := k.farSeq, mism := k.mism, vmism := k.vmism }
  if keep then { r with chkcnt := k.chkcnt, tcnt := k.tcnt, ret := k.ret } else r

/-- A cluster after a cluster reset. A transition that it has begun goes on (R267). -/
def Cluster.clear (x : Cluster) (keep : Bool) (now : Nat) : Cluster :=
  let r := { Cluster.reset with
    power := x.power, trans := x.trans, resetAt := now, stoppedAt := if x.power = .on then none else some now, nextCp := x.nextCp, mxMiss := x.mxMiss, reportedFree := x.reportedFree }
  if keep then { r with ceCnt := x.ceCnt, ueCnt := x.ueCnt } else r

/-- CLUSTER RESET (R73, R172, R225, R268): memory, engines, barriers, generator, ports and CSRs take their values after
reset. Deliveries that had been accepted end at their senders with status 3; the matrix queue empties without completions
(assumption 43). -/
def State.resetCluster (s : State) (cl : Nat) (keep : Bool) : State :=
  let x := s.cluster cl
  let cores := coresOf cl
  let s := cores.foldl (fun (s : State) c => s.clearCtxs c) s
  let s := cores.foldl (fun (s : State) c => s.updCore c fun k => k.clear keep) s
  let s := (s.setCluster cl (x.clear keep s.now)).updDie (dieOfCluster cl) fun d => { d with
    leaveQ := d.leaveQ.filter fun i => i != cl }
  let s := (cores ++ cores.flatMap State.neighboursOf).eraseDups.foldl (fun (s : State) c => s.recount c) s
  (x.cpq.filter fun c => c.op == .deliver).foldl (fun s c => deliveryEnded s c 3) s

end Sys2Proof.Machine
end

