-- ==== Sys2Proof/Machine/Distributor.lean ====
section
/-! DEFINITION. Sys2Proof/Machine/Distributor.lean: the distributor: launch records (R216 to R221), its queue and placement
(R223 to R226), requests (R222), draining, images and restoring (R227 to R230), and done notices (R231). -/

namespace Sys2Proof.Machine

/-! ## The launch record (R216, R217) -/

/-- Word i of a launch's record. -/
def Launch.w (l : Launch) (i : Nat) : Word := l.rec_.getD i 0
/-- The PID to run. -/
def Launch.runs (l : Launch) : BitVec 16 := (l.w 0).extractLsb' 0 16
/-- LPRIO. -/
def Launch.prio (l : Launch) : Nat := fld (l.w 0) 16 6
/-- NCL, the cluster count. -/
def Launch.ncl (l : Launch) : Nat := fld (l.w 1) 0 13 + 1
/-- ALLC. -/
def Launch.allc (l : Launch) : Bool := (l.w 1).getLsbD 13
/-- RECTW. -/
def Launch.rectw (l : Launch) : Nat := fld (l.w 1) 14 6
/-- LBASE. -/
def Launch.lbase (l : Launch) : Nat := fld (l.w 2) 0 16
/-- A VA of two record words. -/
def Launch.va (l : Launch) (i : Nat) : BitVec 64 := l.w (i + 1) ++ l.w i
/-- NPAR. -/
def Launch.npar (l : Launch) : Nat := fld (l.w 6) 0 17
/-- ALN. -/
def Launch.aln (l : Launch) : Nat := fld (l.w 9) 0 9
/-- ADST. -/
def Launch.adst (l : Launch) : Nat := fld (l.w 9) 9 12
/-- SVE. -/
def Launch.sve (l : Launch) : Bool := (l.w 18).getLsbD 16
/-- SAVE. -/
def Launch.save (l : Launch) : BitVec 64 := l.va 19
/-- The launch may be pre-empted (R216). -/
def Launch.preemptible (l : Launch) : Bool := l.save != 0
/-- Bytes of its sump copy. -/
def Launch.copyBytes (l : Launch) : Nat := 128 + 4 * l.args.length

/-- A record of 32 words as a launch. -/
def launchOf (ws : List Word) (m : Msg) : Launch :=
  ⟨0, ws, [], 0, [], [], [], false, [], false, 0, m.stag⟩

/-- The logical core ranges of two launches of one PID overlap (R217). -/
def Launch.overlaps (a b : Launch) : Bool :=
  a.runs == b.runs && decide (a.lbase < b.lbase + 8 * b.ncl ∧ b.lbase < a.lbase + 8 * a.ncl)

/-- The fields of a record break R216 or R217, overlap apart. -/
def Launch.malformed (l : Launch) : Bool :=
  let hi (i n : Nat) : Bool := l.w i >>> n != 0
  let badVa (i : Nat) (align : Nat) : Bool := (l.va i).toNat % align != 0 || decide (2 ^ 53 ≤ (l.va i).toNat)
  hi 0 22 || hi 1 20 || decide (5120 < l.ncl) || decide (32 < l.rectw) || hi 2 16 || l.lbase % 8 != 0
    || (l.w 3).getLsbD 22 || (l.w 3).getLsbD 31 || badVa 4 128 || hi 6 17 || l.npar == 0 || decide (65536 < l.npar)
    || badVa 7 128 || hi 9 21 || decide (256 < l.aln) || hi 12 16 || fld (l.w 12) 0 16 == 0 || hi 13 29
    || l.w 13 == 0 || decide (2 ^ 28 < (l.w 13).toNat) || hi 17 10 || fld (l.w 17) 0 4 == 0 || hi 18 17
    || badVa 19 (2 ^ 20) || hi 29 4 || decide (8 < (l.w 29).toNat) || l.w 30 != 0 || l.w 31 != 0
    || (l.rectw != 0 && (l.ncl % l.rectw != 0 || decide (160 < l.ncl / l.rectw)))
    || decide (40960 < l.lbase + 8 * l.ncl) || decide (4096 < l.adst + l.aln)

/-! ## Reads of the distributor (R81, R220, R221) -/

/-- What a run of line reads gives: the words, a failure (status 1 no entry or an unreachable chip, 2 no RD, 5 poison, and
4 for an unreachable chip where that is told apart), or it waits. -/
inductive LineRun
  | done (ws : List Word)
  | fail (status : Nat)
  | wait
  deriving DecidableEq, Repr

/-- The outcome of one line's read. -/
def lineRun : ReadResult → LineRun
  | .data ws p => if p then .fail 5 else .done ws
  | .fail cause => .fail (if cause = 10 then 2 else 1)
  | .dead _ _ => .fail 4

namespace State

/-- One line is read for the distributor, as a core of die 0 would (R81): here at once when its home may serve it, from
another chip by a request. raw: a line of an image, whatever RD holds (R228). -/
def distRead (s : State) (raw : Bool) (pid tag : BitVec 16) (va : BitVec 64) : State × LineRun :=
  match s.dist.lines.find? fun x => x.1 == (pid, tag, va) with
  | some (_, none) => (s, .wait)
  | some (_, some r) => (s, lineRun r)
  | none =>
    let i := State.stationOf 0 va
    let by_ : Issuer := ⟨65535, 0, 0xFFFF, 0, pid, 0, tag⟩
    let r : GlobalRead := ⟨s.readId, by_, va, 32, tag, .dist pid tag va, s.readId, none, none, false, raw⟩
    match s.findEntry i pid va with
    | none => (s, .fail 1)
    | some e =>
      if !e.rd && !raw then (s, .fail 2)
      else if e.rmt then
        (({ s with
            readId := s.readId + 1, reads := s.reads ++ [r],
            dist := { s.dist with lines := s.dist.lines ++ [((pid, tag, va), none)] } } : State).sendPacket e.chip 2 (.read r e.rdie),
          .wait)
      else
        let p := e.place (readVas r)
        if mayServe s r p then
          let (s, ws, bad) := homeWords s p pid tag
          (s, lineRun (.data ws bad))
        else (s, .wait)

/-- A line of a launch, which needs RD (R85). -/
def distLine (s : State) (pid tag : BitVec 16) (va : BitVec 64) : State × LineRun := s.distRead false pid tag va

/-- n lines, in ascending address; the first that fails or waits decides. -/
def distLines (s : State) (pid tag : BitVec 16) (va : BitVec 64) : Nat → State × LineRun
  | 0 => (s, .done [])
  | n + 1 =>
    match s.distLine pid tag va with
    | (s, .done ws) =>
      match s.distLines pid tag (va + 128) n with
      | (s, .done vs) => (s, .done (ws ++ vs))
      | r => r
    | r => r

/-- The distributor has done with a launch: its lines are forgotten. -/
def linesDone (s : State) : State := { s with dist := { s.dist with lines := [] } }

/-! ## Launch requests (R220) -/

/-- The acknowledgement of a launch message (R220). -/
def launchAnswer (s : State) (m : Msg) (status : Nat) (id : Word) : State :=
  let s := s.linesDone
  if (m.pay 2).getLsbD 31 then s
  else s.answerTo .distributor unitDistributor m.pid m.score m.schip m.stag (m.pay 2) [w32 status, id]

/-- The launch is accepted: it takes an identifier and its place in the queue; its PID is live (R12, R220). -/
def acceptLaunch (s : State) (m : Msg) (l : Launch) : State :=
  let id := s.dist.nextId
  ({ s with
      live := if s.live.contains l.runs then s.live else s.live ++ [l.runs]
      dist := { s.dist with queue := s.dist.queue ++ [{ l with id := id }], nextId := id + 1 } } : State).launchAnswer m 0 id

/-- The checks of R220 in their order, from the record's words on. -/
def checkLaunch (s : State) (m : Msg) (ws : List Word) : State × Option State :=
  let l := launchOf ws m
  let seen (s : State) : State := s.noteTables l.runs m.stag none none
  let refuse (s : State) (n : Nat) : State × Option State :=
    (s, some ((if n = 2 then s.noteTables m.pid m.stag none none else seen s).launchAnswer m n 0))
  if l.runs ≠ m.pid ∧ !s.isSup m.pid then refuse s 2
  else if !s.mapValid l.runs then refuse s 4
  else if l.malformed || (s.dist.queue ++ s.dist.placed).any l.overlaps then refuse s 3
  else
    match s.distLines m.pid m.stag (l.va 7) l.aln with
    | (s, .wait) => (s, none)
    | (s, .fail n) => refuse s (if n = 4 then 1 else n)
    | (s, .done args) =>
      let l := { l with args := args }
      if (s.die 0).sumpQuota < s.sumpUsed 0 + l.copyBytes then refuse s 6
      else (s, some ((seen s).acceptLaunch m l))

end State

/-- LAUNCH_REQUEST: the distributor takes the launch message at the head of its inbox (R220, R221). The record is read from the
address that the message gives, which in a message of the host need not be aligned (assumption 105). -/
def execLaunchRequest (s : State) : Out :=
  match s.dist.inbox with
  | [] => .next s
  | m :: rest =>
    if m.kind ≠ 5 then .next s
    else
      let done (s : State) : State := { s with dist := { s.dist with inbox := rest } }
      match s.distLine m.pid m.stag (m.pay 1 ++ m.pay 0) with
      | (s, .wait) => .next s
      | (s, .fail n) => .next (done (s.launchAnswer m (if n = 4 then 1 else n) 0))
      | (s, .done ws) =>
        match s.checkLaunch m ws with
        | (s, none) => .next s
        | (_, some s) => .next (done s)

/-! ## The queue and the grid (R223, R224) -/

/-- Place of a cluster on the package grid: 32 Y + X (R224). -/
def gridPlace (cl : Nat) : Nat := 32 * (coreY (coreOfCluster cl 0) / 2) + coreX (coreOfCluster cl 0) / 4

/-- The cluster at a place of the grid. -/
def clusterAtGrid (x y : Nat) : Nat := clusterOf (coreAt (4 * x) (2 * y))

/-- Insert a cluster in grid order. -/
def gridInsert (c : Nat) : List Nat → List Nat
  | [] => [c]
  | d :: r => if gridPlace c < gridPlace d then c :: d :: r else d :: gridInsert c r

/-- The clusters that a launch takes from a list of free ones, in launch order (R224). -/
def pickClusters (l : Launch) (free : List Nat) : Option (List Nat) :=
  let w := l.rectw
  if w = 0 then
    let c := free.foldr gridInsert []
    if l.ncl ≤ c.length then some (c.take l.ncl) else none
  else
    let h := l.ncl / w
    let rect (o : Nat) : List Nat := (List.range l.ncl).map fun j => clusterAtGrid (o % 32 + j % w) (o / 32 + j / w)
    ((List.range (32 * 160)).find? fun o =>
      decide (o % 32 + w ≤ 32 ∧ o / 32 + h ≤ 160) && (rect o).all fun c => free.contains c).map rect

namespace State

/-- The free clusters that the dies have reported (R223). -/
def freeClusters (s : State) : List Nat :=
  s.clusters.filterMap fun e => if s.isFree e.1 && e.2.reportedFree then some e.1 else none

/-- The head: the oldest launch of the highest level that is not empty (R223). -/
def headLaunch (s : State) : Option Launch :=
  s.dist.queue.foldl (fun b l => match b with
    | none => some l
    | some h => if h.prio < l.prio then some l else some h) none

/-- The next partition key from a counter's value: not 0, not in use (R224). -/
def freshKey (s : State) : Nat → BitVec 16 → BitVec 16
  | 0, k => k
  | n + 1, k =>
    if k = 0 || s.dist.placed.any fun l => l.key == k then s.freshKey n (if k = 0xFFFF then 1 else k + 1) else k

/-! ## Placement (R225, R226) -/

/-- The code store of a placement: NPAR parcels, then 0x0000. -/
def codeTable (npar : Nat) (ws : List Word) : Tab Parcel :=
  let parcels : List Parcel := ws.flatMap fun w => [w.extractLsb' 0 16, w.extractLsb' 16 16]
  (List.range (min npar parcels.length)).filterMap fun i =>
    let p := parcels.getD i 0
    if p = 0 then none else some (i, p)

/-- Write lines of words into a scratchpad: full, not poisoned. -/
def fullLines (m : Mem) (line : Nat) (ws : List Word) : Mem :=
  (List.range (ws.length / 32)).foldl (fun (m : Mem) i =>
    (m.setWords (128 * (line + i)) ((ws.drop (32 * i)).take 32)).setLine (line + i) ⟨true, false⟩) m

/-- The CSRs and the step state of a placed core (R225, steps 4 and 5). -/
def placeCore (s : State) (l : Launch) (key : BitVec 16) (core lcore : Nat) (step : BitVec 64) : State :=
  let pid := l.runs
  let (svc, svr) := s.mapSv pid
  let rank := s.rankField pid
  s.updCore core fun k => { k with
    lcore := BitVec.ofNat 16 lcore, rank := rank, pid := pid, pkey := key, svcore := svc, svchip := svr
    stquota := (l.w 12).extractLsb' 0 16, buddef := (l.w 13).extractLsb' 0 29, vweight := (l.w 17).extractLsb' 0 4
    s := step, k := 0, q := (l.w 12).extractLsb' 0 16, joined := some step }

/-- The step in which a placed core starts (R100, R225, R419). -/
def startStep (s : State) (pid : BitVec 16) : BitVec 64 :=
  let d := s.domain pid
  if d.c = -1 ∧ !(d.chipReported.elim false fun r => r.1 == 0) then 0 else BitVec.ofNat 64 (d.c + 2).toNat

/-- The core-table entries of a placed cluster (R225, step 6). -/
def tableWrite (s : State) (l : Launch) (key : BitVec 16) (cl j : Nat) : Deferred :=
  .words ((List.range 8).map fun c =>
    (s.ctab l.runs + 4 * (l.lbase + 8 * j + c), key ++ BitVec.ofNat 16 (coreOfCluster cl c)))

/-- A message of the distributor to a core of a launch (R226, R228, R230). -/
def distMsg (s : State) (l : Launch) (core : Nat) (hw : Word) (kind : BitVec 4) (pay : List Word) : Msg × State :=
  let k := s.core core
  let (q, s) := s.unitSeq .distributor
  ({ (Msg.blank.withHandler hw) with
      dcore := BitVec.ofNat 16 core, dkey := k.pkey, dchip := s.chip, score := 0xFFFF, schip := k.rank, pid := l.runs,
      stag := k.s.extractLsb' 0 16, seq := q, nw := BitVec.ofNat 5 pay.length, kind := kind, body := pay }, s)

/-- The start messages of a cluster (R226). -/
def startMessages (s : State) (l : Launch) (cl : Nat) : State :=
  ((coresOf cl).take (if l.allc then 8 else 1)).foldl (fun (s : State) core =>
    let (m, s) := s.distMsg l core (l.w 3) 0 ((List.range (min 8 (l.w 29).toNat)).map fun i => l.w (21 + i))
    s.send m) s

/-- A notice is sent to context 7 of a core (R228, R230), a message as any other (R18). A retired core dispatches nothing more
(R246) and gets none. -/
def notice (s : State) (l : Launch) (core : Nat) (w : Word) : State :=
  if (s.core core).ret then s
  else
    let (m, s) := s.distMsg l core (w32 (fld (l.w 18) 0 16)) 4 [w]
    s.send m

/-! ## Images (R228, R230) -/

/-- Where a line of an image lies: its home and global address on this chip, or another chip with the die of its station there. -/
inductive ImagePlace
  | here (home a : Nat)
  | away (chip : BitVec 22) (rdie : BitVec 3)

/-- The VA of line n of the image of launch cluster j (R228). -/
def imageVa (l : Launch) (j n : Nat) : BitVec 64 := l.save + BitVec.ofNat 64 (j * 2 ^ 20 + 128 * n)

/-- Where line n of the image of launch cluster j lies, when its page has an entry. -/
def imagePlace (s : State) (l : Launch) (j n : Nat) : Option ImagePlace :=
  let va := imageVa l j n
  (s.findEntry (State.stationOf 0 va) l.runs va).map fun e =>
    if e.rmt then .away e.chip e.rdie
    else
      let p := e.place [va]
      .here p.home (s.currentAddr p.code p.frame p.shadow (p.phys.headD 0))

/-- The address of an image line on this chip. -/
def imageLine (s : State) (l : Launch) (j n : Nat) : Option Nat :=
  match s.imagePlace l j n with
  | some (.here _ a) => some a
  | _ => none

/-- The SAVE page of a launch cluster has RD and WR, as the drain notice asks (R228). -/
def imageOpen (s : State) (l : Launch) (j : Nat) : Bool :=
  let va := l.save + BitVec.ofNat 64 (j * 2 ^ 20)
  (s.findEntry (State.stationOf 0 va) l.runs va).elim false fun e => e.rd && e.wr

/-- The words of a message's slots in an image: header and payload, 16 words a slot. -/
def slotWords (m : Msg) : List Word :=
  let ws := [m.h0, m.h1, m.h2, m.h3, m.h4, m.h5, m.seq, m.h7] ++ m.body
  (ws ++ List.replicate 48 0).take (16 * m.slots)

/-- Two bits a line, F/E even and P odd. -/
def sideWord (sides : List Side) : Word :=
  w32 (((List.range 16).map fun i =>
    let x := sides.getD i Side.zero
    (if x.fe then 1 else 0) * 4 ^ i + (if x.p then 2 else 0) * 4 ^ i).sum)

/-- The sidebands of TCM and scratchpad lines, in the image's order. -/
def imageSides (s : State) (cl : Nat) : List Side :=
  (coresOf cl).flatMap (fun c => (List.range 192).map fun i => (s.core c).tcm.line i)
    ++ (List.range 4096).map fun i => (s.cluster cl).spad.line i

/-- The messages of a core's arrival buffer that an image holds (R228). The lines of a supervisor queue that context 7 has not
taken are none of them: they go with the scratchpad (assumption 90). -/
def imageMsgs (s : State) (core : Nat) : List Msg :=
  ((s.core core).buf.filter fun x => x.runner.isNone && !x.line).map fun x => x.msg

/-- The 32 words of a line of local memory, read and checked for an image (R74). -/
def imageRead (s : State) (core unit addr : Nat) : List Word × State :=
  (List.range 32).foldl (fun (x : List Word × State) i =>
    let (s, w, _) := x.2.readLocal core 0 unit (addr + 4 * i)
    (x.1 ++ [w], s)) ([], s)

/-- The 32 words of image line n of a cluster that do not lie in local memory (R228); none where the layout is left open. -/
def imageWords (s : State) (cl n : Nat) : Option (List Word) :=
  if n < 6656 then
    let i := n - 5632
    some ((List.range 32).map fun w => Tab.look 0 ((s.cluster cl).tiles[i / 128 % 8]'(Nat.mod_lt _ (by decide))).vals
      (32 * (i % 128) + w))
  else if n < 6912 then
    let i := n - 6656
    some ((((s.imageMsgs (coreOfCluster cl (i / 32))).flatMap slotWords).drop (32 * (i % 32)) ++ List.replicate 32 0).take 32)
  else if n < 6928 then
    let l := (s.imageSides cl).drop (512 * (n - 6912))
    some ((List.range 32).map fun w => sideWord ((l.drop (16 * w)).take 16))
  else none

/-- 32 free words (R228: lines whose layout the spec leaves open). -/
def freeLine (s : State) : List Word × State :=
  (List.range 32).foldl (fun (x : List Word × State) _ =>
    let (w, s) := x.2.freeWord
    (x.1 ++ [w], s)) ([], s)

/-- The 32 words that image line n of a cluster takes (R228). Where the layout is left open the words are free; an entry of a
copy command that is not used holds 0. -/
def imageData (s : State) (cl n : Nat) : List Word × State :=
  if n < 1536 then s.imageRead (coreOfCluster cl (n / 192)) unitService (128 * (n % 192))
  else if n < 5632 then s.imageRead (coreOfCluster cl 0) unitCopy (0x100000 + 128 * (n - 1536))
  else match s.imageWords cl n with
  | some ws => (ws, s)
  | none =>
    let used := ((s.cluster cl).drain.elim [] Drain.kept).length
    let (ws, s) := s.freeLine
    (if n < 6944 then ws
     else (List.range 32).map fun w => if 2 * (n - 6944) + w / 16 < used then ws.getD w 0 else 0, s)

/-- The image of a cluster is written as raw data (R228), to another chip by packets; false when a page has no entry. -/
def writeImage (s : State) (l : Launch) (cl j : Nat) : Bool × State :=
  if (List.range 6976).all fun n => (s.imagePlace l j n).isSome then
    (true, (List.range 6976).foldl (fun (s : State) n =>
      let (ws, s) := s.imageData cl n
      match s.imagePlace l j n with
      | some (.here _ a) => { s with gmem := s.gmem.setWords a ws }
      | some (.away chip rdie) => s.sendPacket chip 2 (.raw l.runs (imageVa l j n) rdie ws)
      | none => s) s |>.touchTables
        ((List.range 6976).filterMap fun n => s.imageLine l j n))
  else (false, s)

/-- What the image keeps of a cluster beside its lines. -/
def snapshot (s : State) (cl : Nat) : Saved :=
  ⟨(coresOf cl).map s.core, s.cluster cl, s.clusterCycle cl⟩

/-- The tag of the distributor's reads of an image. -/
def imageTag (s : State) (l : Launch) : BitVec 16 := BitVec.ofInt 16 ((s.domain l.runs).c + 1)

/-- The words of image line n, read back through its home (R76), or from another chip as they have come; the line's poison. -/
def readImage (s : State) (l : Launch) (j n : Nat) : State × LineData :=
  match s.imagePlace l j n with
  | some (.here home a) =>
    let (s, ws, p) := s.readWords home l.runs (s.imageTag l) ((List.range 32).map fun i => a + 4 * i)
    (s, ⟨n, ws, p⟩)
  | _ =>
    match s.dist.lines.find? fun x => x.1 == (l.runs, s.imageTag l, imageVa l j n) with
    | some (_, some (.data ws p)) => (s, ⟨n, ws, p⟩)
    | _ => (s, ⟨n, [], false⟩)

/-- The 6,976 lines of an image, read back. -/
def readImageAll (s : State) (l : Launch) (j : Nat) : State × List LineData :=
  (List.range 6976).foldl (fun (x : State × List LineData) n =>
    let (s, d) := x.1.readImage l j n
    (s, x.2 ++ [d])) (s, [])

/-- The lines of an image that lie on other chips are read, one after another: they have come (done), one waits, or one could
not be read. -/
def fetchImage (s : State) (l : Launch) (j : Nat) : State × LineRun :=
  (List.range 6976).foldl (fun (x : State × LineRun) n =>
    match x.2, x.1.imagePlace l j n with
    | .done _, some (.away _ _) =>
      let (s, r) := x.1.distRead true l.runs (x.1.imageTag l) (imageVa l j n)
      (s, match r with | .done _ => .done [] | r => r)
    | .done _, none => (x.1, .fail 1)
    | _, _ => x) (s, .done [])

/-- The images of a launch are fetched; one that cannot be read is dropped. None: a line waits. -/
def fetchImages (s : State) (l : Launch) : State × Option Launch :=
  l.images.foldl (fun (x : State × Option Launch) im =>
    match x.2 with
    | none => x
    | some k =>
      match x.1.fetchImage l im.1 with
      | (s, .done _) => (s, some k)
      | (s, .wait) => (s, none)
      | (s, .fail _) => (s, some { k with images := k.images.filter fun y => y.1 != im.1 })) (s, some l)

/-- The messages that image words hold. -/
def msgsOf : Nat → List Word → List Msg
  | 0, _ => []
  | n + 1, ws =>
    let g (i : Nat) : Word := ws.getD i 0
    let nw := ((g 7).extractLsb' 0 5).toNat
    if (ws.take 16).all fun w => w == 0 then []
    else
      let m : Msg := { Msg.ofWords (g 0) (g 1) (g 2) (g 3) (g 4) (g 5) (g 6) (g 7) ((ws.drop 8).take nw) with
        old0 := g 0, old1 := g 1 }
      m :: msgsOf n (ws.drop (16 * m.slots))

/-- The words of image line n. -/
def imageAt (d : List LineData) (n : Nat) : List Word := (d[n]?).elim [] LineData.words

/-- A memory from image lines, with the sidebands that the image gives; a line whose image line was poisoned is poisoned
(assumption 10). -/
def memOf (d : List LineData) (first n side : Nat) : Mem :=
  (List.range n).foldl (fun (m : Mem) i =>
    let w := (imageAt d (6912 + (side + i) / 512)).getD ((side + i) % 512 / 16) 0
    (m.setWords (128 * i) (imageAt d (first + i))).setLine i
      ⟨w.getLsbD (2 * ((side + i) % 16)),
        w.getLsbD (2 * ((side + i) % 16) + 1) || (d[first + i]?).elim false LineData.p⟩) Mem.zero

/-- The CSRs of a core come from its saved values, but for those that a placement gives (R230); Q is STQUOTA (R100). -/
def Core.restore (k old : Core) : Core :=
  { k with
    buddef := old.buddef, budmax := old.budmax, redlim := old.redlim, mxretry := old.mxretry, vweight := old.vweight
    stquota := old.stquota, q := old.stquota, stallmax := old.stallmax, chkcnt := old.chkcnt, qctx := old.qctx, qdir := old.qdir
    qovf := old.qovf, fqBase := old.fqBase, fqNlm1 := old.fqNlm1, fqEn := old.fqEn, fqHead := old.fqHead
    fqTail := old.fqTail, fqCnt := old.fqCnt, fqEntry := old.fqEntry, fqPrio := old.fqPrio, ringSeq := old.ringSeq
    mlim := old.mlim, tlim := old.tlim, tcnt := old.tcnt, ret := old.ret }

/-- A cluster is restored from its image (R230): memory, tiles, buffers, barriers, generator, copy commands, CSRs. The age of a
restored copy command begins anew (assumption 103). -/
def restoreCluster (s : State) (l : Launch) (cl j : Nat) (im : Saved) : State :=
  let (s, d) := s.readImageAll l j
  let base := s
  let s := (List.range 8).foldl (fun (s : State) c =>
    let core := coreOfCluster cl c
    let msgs := msgsOf 64 ((List.range 32).flatMap fun n => imageAt d (6656 + 32 * c + n))
    s.updCore core fun k => { Core.restore k (im.cores.getD c k) with
      tcm := memOf d (192 * c) 192 (192 * c)
      buf := msgs.map fun m => ⟨m, s.now, none, false⟩ }) s
  let tile (t : Fin 8) : Tile := { im.cluster.tiles[t] with
    vals := (List.range 4096).filterMap fun e =>
      let w := (imageAt d (5632 + 128 * t.val + e / 32)).getD (e % 32) 0
      if w = 0 then none else some (e, w) }
  let key := (s.core (coreOfCluster cl 0)).pkey
  let here (c : CpCmd) : CpCmd := { c with by_ := { c.by_ with core := coreOfCluster cl (coreIn c.by_.core), key := key } }
  let kept := im.cluster.drain.elim [] Drain.kept
  let s := s.updCluster cl fun x => { x with
    spad := memOf d 1536 4096 1536, tiles := Vector.ofFn tile, bars := im.cluster.bars, gen := im.cluster.gen
    wins := im.cluster.wins, clthr := im.cluster.clthr, ceCnt := im.cluster.ceCnt, ceThr := im.cluster.ceThr
    ueCnt := im.cluster.ueCnt, resetAt := base.now - im.cycle, stopped := 0 }
  kept.foldl (fun (s : State) c => s.cpEnter cl (here c)) s

/-! ## Done notices and freed clusters (R225, R231) -/

/-- The done notice of a launch (R231), under the PID of its record: the record is what the distributor keeps of a
launch (R220 step 3). DEDUCED: R231 names no PID (log entry 28). -/
def doneNotice (s : State) (l : Launch) : State :=
  if (l.w 16).getLsbD 31 then s
  else s.answerTo .distributor unitDistributor l.runs ((l.w 14).extractLsb' 0 16) ((l.w 15).extractLsb' 0 22) l.tag (l.w 16)
    [l.id, w32 l.done]

/-- Change the placed launch of an identifier. -/
def updLaunch (s : State) (id : Word) (f : Launch → Launch) : State :=
  { s with dist := { s.dist with placed := s.dist.placed.map fun l => if l.id = id then f l else l } }

/-- A launch has lost its last cluster: it goes back to its level as the oldest (R230), or its done notice is sent
(R231). -/
def endLaunch (s : State) (l : Launch) : State :=
  let s := { s with dist := { s.dist with placed := s.dist.placed.filter fun x => x.id != l.id } }
  if l.preempting && decide (l.gone.length < l.clusters.length) then
    { s with dist := { s.dist with queue :=
      { l with clusters := [], left := [], preempting := false, saved := true } :: s.dist.queue } }
  else s.doneNotice l

/-- A cluster of a launch has been freed; kept: by a pre-emption, after which it is placed again. -/
def freeCluster (s : State) (cl : Nat) (id : Word) (kept : Bool) : State :=
  let s := (s.updCluster cl fun x => { x with placed := none, drain := none }).updLaunch id fun l =>
    { l with
      left := l.left.filter fun c => c != cl
      gone := if kept then l.gone else l.gone ++ (List.range l.clusters.length).filter fun j => l.clusters[j]? == some cl }
  match s.dist.placed.find? fun l => l.id == id with
  | some l => if l.left.isEmpty then s.endLaunch l else s
  | none => s

/-! ## Placement, one launch (R225) -/

/-- The steps of R225 on one cluster of a launch, up to its core-table entries. -/
def placeCluster (s : State) (l : Launch) (key : BitVec 16) (code : Tab Parcel) (step : BitVec 64) (cl j : Nat) : State :=
  let s := s.resetCluster cl true
  let image := (l.images.find? fun x => x.1 == j).map fun x => x.2
  let s := s.updCluster cl fun x => { x with
    placed := some (l.id, j), code := code, restoring := l.saved, clthr := (l.w 17).extractLsb' 4 6
    spad := if image.isSome then x.spad else fullLines x.spad l.adst l.args
    gen := genSeed (l.va 10) (s.rankField l.runs) (BitVec.ofNat 16 (l.lbase + 8 * j)) }
  let s := (List.range 8).foldl (fun (s : State) c =>
    s.placeCore l key (coreOfCluster cl c) (l.lbase + 8 * j + c) step) s
  match image with
  | some im => s.restoreCluster l cl j im
  | none => s

/-- A launch is placed on its clusters (R225, R226): (cluster, index) pairs. With SVE = 0, and so no handler for it, a restored launch
gets no restore notice, and its user contexts are open at once (R230; assumption 102). -/
def placeLaunch (s : State) (l : Launch) (key : BitVec 16) (code : List Word) (cls : List (Nat × Nat)) : State :=
  let pid := l.runs
  let s := s.noteTables pid (s.imageTag l) (s.ownRank pid) none
  let step := s.startStep pid
  let member := s.anyMember pid
  let table := codeTable l.npar code
  let s := cls.foldl (fun (s : State) x => s.placeCluster l key table step x.1 x.2) s
  let s := cls.foldl (fun (s : State) x =>
    let d := s.tableWrite l key x.1 x.2
    if member then s.updDomain pid fun y => { y with deferred := y.deferred ++ [d] } else s.changeNow pid d) s
  let s := s.updDomain pid fun d => { d with launched := true }
  let s := cls.foldl (fun (s : State) x =>
    if l.images.any fun im => im.1 == x.2 then
      (if l.sve then (coresOf x.1).foldl (fun (s : State) c => s.notice l c 1) s else s)
    else s.startMessages l x.1) s
  s.boundary pid

end State

/-- PLACEMENT: the head launch is placed when it fits in the reported free clusters and its code has been read (R223 to
R226). A code image fault ends the launch: its clusters have been reset, and of the steps after that none is taken; while a line
of the code from another chip is awaited, the head stays in the queue and holds no cluster (assumption 104). -/
def execPlacement (s : State) : Out :=
  match s.headLaunch with
  | none => .next s
  | some l =>
    match pickClusters l s.freeClusters with
    | none => .next s
    | some all =>
      let pid := l.runs
      match s.fetchImages l with
      | (s, none) => .next s
      | (s, some l) =>
      match s.distLines pid (BitVec.ofInt 16 ((s.domain pid).c + 1)) (l.va 4) ((2 * l.npar + 127) / 128) with
      | (s, .wait) => .next s
      | (s, r) =>
        let key := s.freshKey 65536 s.dist.nextKey
        let cls := (all.zip (List.range all.length)).filter fun x => !l.gone.contains x.2
        let s := { s with dist := { s.dist with
          queue := s.dist.queue.filter (fun x => x.id != l.id)
          nextKey := if key = 0xFFFF then 1 else key + 1 } }
        let l := { l with key := key, clusters := all, left := cls.map fun x => x.1 }
        match r with
        | .done ws =>
          .next ((({ s with dist := { s.dist with placed := s.dist.placed ++ [l] } } : State).placeLaunch l key ws cls).linesDone)
        | .fail n =>
          let s := cls.foldl (fun (s : State) x => s.resetCluster x.1 true) s
          let info : Nat := if n = 5 then 2 else if n = 2 then 3 else n
          let s := s.unitEvent .distributor unitDistributor 0 40 pid l.tag l.id (w32 info)
          .next (((s.doneNotice { l with done := 1 }).boundary pid).linesDone)
        | .wait => .next s

/-! ## Release, pre-emption, removal (R222, R223, R227) -/

namespace State

/-- A launch drains: save for a pre-emption; a release turns a running pre-emption into one (R227). -/
def drainCluster (s : State) (save : Bool) (cl : Nat) : State :=
  s.updCluster cl fun x => { x with drain := match x.drain with
    | none => some ⟨1, save, []⟩
    | some d => some { d with save := d.save && save } }

/-- Every cluster of a launch that is left drains. -/
def drainLaunch (s : State) (l : Launch) (save : Bool) (done : Nat) : State :=
  let s := l.left.foldl (fun (s : State) c => s.drainCluster save c) s
  s.updLaunch l.id fun x => { x with preempting := save, done := done }

/-- The clusters of a launch that do not drain yet; none for one that is queued. -/
def undrained (s : State) (l : Launch) : List Nat := l.left.filter fun c => (s.cluster c).drain.isNone

/-- The launch of a request's issuer, with the issuer's launch cluster (R222). -/
def issuerLaunch (s : State) (m : Msg) : Option (Launch × Nat) :=
  if s.chipOf m.pid m.schip.toNat ≠ some s.chip then none
  else
    (s.dist.placed.find? fun l => l.runs == m.pid &&
      decide (l.lbase ≤ m.score.toNat ∧ m.score.toNat < l.lbase + 8 * l.ncl)
        && (l.clusters[(m.score.toNat - l.lbase) / 8]?).elim false fun c => l.left.contains c).map
      fun l => (l, (m.score.toNat - l.lbase) / 8)

/-- The message at the head of the inbox, when it is a request with a code. The inbox is one queue: a request waits behind a
launch message whose record or block is still being read (assumption 89). -/
def request (s : State) (code : Nat) : Option Msg :=
  match s.dist.inbox with
  | m :: _ => if m.kind = 0 ∧ m.entry.toNat = code then some m else none
  | [] => none

/-- The head of the inbox has been taken. -/
def popInbox (s : State) : State := { s with dist := { s.dist with inbox := s.dist.inbox.tail } }

/-- A request that is not permitted, or that names nothing (R222). -/
def refuseRequest (s : State) (m : Msg) : State :=
  s.popInbox.unitEvent .distributor unitDistributor 0 39 m.pid m.stag (w32 m.entry.toNat) (m.pay 0)

/-- A supervisor's request that names a placed or a queued launch. -/
def named (s : State) (m : Msg) : Option Launch :=
  if s.isSup m.pid then (s.dist.placed ++ s.dist.queue).find? fun l => l.id == m.pay 0 else none

end State

/-- RELEASE_CLUSTER: request 0 drains the issuing core's cluster (R222, R227). -/
def execReleaseCluster (s : State) : Out :=
  match s.request 0 with
  | none => .next s
  | some m =>
    match s.issuerLaunch m with
    | none => .next (s.refuseRequest m)
    | some (l, j) =>
      .next (if l.preempting then s.popInbox.drainLaunch l false l.done
        else s.popInbox.drainCluster false (l.clusters.getD j 0))

/-- RELEASE_LAUNCH: request 1 drains every cluster of the issuer's launch (R222, R227). -/
def execReleaseLaunch (s : State) : Out :=
  match s.request 1 with
  | none => .next s
  | some m =>
    match s.issuerLaunch m with
    | none => .next (s.refuseRequest m)
    | some (l, _) => .next (s.popInbox.drainLaunch l false l.done)

/-- PREEMPT_LAUNCH: request 2 pre-empts the named launch (R222). One that is queued or already drains is left as it
is. One with SAVE = 0 may not be pre-empted (R216): the request is refused with event 39, as one that names nothing
(assumption 91). -/
def execPreemptLaunch (s : State) : Out :=
  match s.request 2 with
  | none => .next s
  | some m =>
    match s.named m with
    | none => .next (s.refuseRequest m)
    | some l =>
      if !l.preemptible then .next (s.refuseRequest m)
      else if s.undrained l = [] then .next s.popInbox
      else .next (s.popInbox.drainLaunch l true 0)

/-- REMOVE_LAUNCH: request 3 removes the named launch with no save; every other code is refused (R222). A launch that a trip
has removed keeps status 3 (R272). The report of step 0 that waits for a queued launch may leave without it (R419). -/
def execRemoveLaunch (s : State) : Out :=
  match s.dist.inbox with
  | [] => .next s
  | m :: _ =>
    if m.kind = 5 ∨ (m.kind = 0 ∧ m.entry.toNat ≤ 2) then .next s
    else if m.kind ≠ 0 ∨ m.entry ≠ 3 then .next (s.refuseRequest m)
    else
      match s.named m with
      | none => .next (s.refuseRequest m)
      | some l =>
        let s := s.popInbox
        if s.dist.queue.any fun x => x.id == l.id then
          .next ((({ s with dist := { s.dist with queue := s.dist.queue.filter fun x => x.id != l.id } } : State).doneNotice
            { l with done := 2 }).boundary l.runs)
        else .next (s.drainLaunch l false (if l.done = 3 then 3 else 2))

/-- The launch that a head of a level pre-empts next: of the lowest level, and there the youngest (R223). -/
def State.nextVictim (s : State) (prio : Nat) : Option Launch :=
  s.dist.placed.foldl (fun b l =>
    if l.preemptible && decide (l.prio < prio) && !(s.undrained l).isEmpty then
      match b with
      | none => some l
      | some v => if l.prio < v.prio || (l.prio = v.prio && decide ((s.dist.nextId - l.id).toNat < (s.dist.nextId - v.id).toNat))
          then some l else some v
    else b) none

/-- PREEMPTION: a head that does not fit pre-empts one more launch, when such launches hold enough clusters (R223). Clusters that
are free, though their die has not reported it, or that drain are counted on. -/
def execPreemption (s : State) : Out :=
  match s.headLaunch with
  | none => .next s
  | some h =>
    let free := s.clusters.filterMap fun e => if s.isFree e.1 then some e.1 else none
    let soon := free ++ s.dist.placed.flatMap fun l => l.left.filter fun c => (s.cluster c).drain.isSome
    let more := (s.dist.placed.filter fun l => l.preemptible && decide (l.prio < h.prio)).flatMap s.undrained
    if (pickClusters h soon).isSome || (pickClusters h (soon ++ more)).isNone then .next s
    else
      match s.nextVictim h.prio with
      | none => .next s
      | some v => .next (s.drainLaunch v true 0)

/-! ## Phases (R227) -/

namespace State

/-- Nothing runs or waits on the contexts of a core. -/
def quietCore (s : State) (core : Nat) : Bool :=
  [1, 2, 3, 4, 5, 6, 7].all fun c => (s.ctx core c).isFree

/-- Phase 2 has ended: activations, send buffers, matrix queue, started copy commands (R227). -/
def quiet (s : State) (cl : Nat) : Bool :=
  let x := s.cluster cl
  (coresOf cl).all s.quietCore && x.mxq.isEmpty && x.mxWait.isEmpty && x.cpq.isEmpty && x.cpWait.isEmpty

/-- A command of a draining cluster that runs: one that has started, and a CPGET or CPFST, for which the arrivals of its cores
wait (R97, R102; assumption 86). -/
def drainRuns (c : CpCmd) : Bool := c.begun || c.op == .get || c.op == .fst

/-- A copy command takes its place among others in service order: the least eff, the first on a tie (R213). -/
def insertBySlack (now : Nat) (c : CpCmd) : List CpCmd → List CpCmd
  | [] => [c]
  | d :: r => if c.eff now ≤ d.eff now then c :: d :: r else d :: insertBySlack now c r

/-- Phase 2: a command that runs and awaits an empty line ends there; the others leave the queue, for the image under save, in service
order (R214, R227, R228). The image has 64 entries; more commands than these, from releases that waited, are all kept and
restored (assumption 103). -/
def drainCopies (s : State) (cl : Nat) : State :=
  let s := ((s.cluster cl).cpq.filter fun c => drainRuns c && !c.allIssued && waitsLine s cl c).foldl (fun s c => endAtLine s cl c) s
  let left := ((s.cluster cl).cpq.filter fun c => !drainRuns c).map fun c => { c with views := [] }
  s.updCluster cl fun x => { x with
    cpq := x.cpq.filter drainRuns
    drain := x.drain.map fun d =>
      if d.save then { d with kept := (d.kept ++ left).foldr (insertBySlack s.now) [] } else d }

/-- Put a drain into a phase. -/
def setPhase (s : State) (cl n : Nat) : State := s.updCluster cl fun x => { x with drain := x.drain.map fun d => { d with phase := n } }

/-- Phase 7: undispatched messages go to the supervisor, unless an image holds them; the cluster is reset and free. -/
def finishDrain (s : State) (cl : Nat) (l : Launch) (save held : Bool) : State :=
  let s := if held then s else (coresOf cl).foldl (fun (s : State) core =>
    let msgs := s.imageMsgs core
    msgs.foldl (fun (s : State) m => s.divert core m) (s.updCore core fun k => { k with buf := [] })) s
  ((s.resetCluster cl true).freeCluster cl l.id save).boundary l.runs

end State

/-- DRAIN_PHASE: a draining cluster that is ON goes on to its next phase once the present one has ended (R227). One that leaves
ON dispatches no notice (R267); a save that a release or a trip has ended writes no image (R227, R272). -/
def execDrainPhase (cl : Nat) (s : State) : Out :=
  let x := s.cluster cl
  match x.drain, x.placed with
  | some d, some (id, j) =>
    match s.dist.placed.find? fun l => l.id == id with
    | none => .next s
    | some l =>
      let cores := coresOf cl
      if x.power != .on then .next s
      else
        match d.phase with
        | 1 => .next (s.setPhase cl 2)
        | 2 =>
          let s := s.drainCopies cl
          if !s.quiet cl || (d.save && x.trans.isSome) then .next s
          else if d.save && l.sve && s.imageOpen l j then
            .next (cores.foldl (fun (s : State) c => s.notice l c 0) (s.setPhase cl 3))
          else .next (s.setPhase cl 4)
        | 3 => .next (if cores.all fun c => s.quietCore c && !noticePending s c 0 then s.setPhase cl 4 else s)
        | 4 => .next ((cores.foldl (fun (s : State) c => s.updCore c fun k => { k with pkey := 0 }) (cores.foldl (fun (s : State) c =>
            s.markUnsettled c) s)).setPhase cl 5)
        | 5 =>
          let s := cores.foldl (fun (s : State) c => if s.mayLeave c then s.leaveByDrain c else s) s
          .next (if cores.all fun c => (s.core c).joined.isNone then s.setPhase cl (if d.save then 6 else 7) else s)
        | 6 => if !d.save then .next (s.setPhase cl 7) else
          let (ok, s) := s.writeImage l cl j
          let im := s.snapshot cl
          .next ((if ok then s.updLaunch id fun l => { l with images := (l.images.filter fun y => y.1 != j) ++ [(j, im)] }
            else s.updLaunch id fun l => { l with images := l.images.filter fun y => y.1 != j }).setPhase cl 7)
        | _ => .next (s.finishDrain cl l d.save (d.save && l.images.any fun y => y.1 == j))
  | _, _ => .next s

/-- FREE_CLUSTER_REPORT: a die reports its free clusters to the distributor (R223). -/
def execFreeClusterReport (die : Nat) (s : State) : Out :=
  .next { s with clusters := s.clusters.map fun e =>
    if dieOfCluster e.1 = die then (e.1, { e.2 with reportedFree := s.isFree e.1 }) else e }

end Sys2Proof.Machine
end

