-- ==== Sys2Proof/Machine/Power.lean ====
section
/-! DEFINITION. Sys2Proof/Machine/Power.lean: power states of clusters (R266, R267), reset commands (R268), the power budget
(R269, R270) and thermal trips (R271, R272), as the host and the dies cause them. -/

namespace Sys2Proof.Machine

namespace State

/-- Every host control frame is answered with a status: 0 done, 1 busy, 2 refused, 3 out of range (R269). -/
def hostStatus (s : State) (st : Nat) (v : Word) : State := { s with hostOut := s.hostOut ++ [.status st v] }

/-- A write of HCLCMD: the checks that its commands share (R269). BUSY, which is of the cluster that HCLCMD names before the write,
comes before all others. -/
def clusterCommand (s : State) (cl cmd : Nat) (refuse : Bool) (act : State → State) : State :=
  if (s.cluster s.host.clu.toNat).trans.isSome then s.hostStatus 1 0
  else if clusterCount ≤ cl then s.hostStatus 3 0
  else if (s.cluster cl).trans.isSome then s.hostStatus 1 0
  else if refuse then s.hostStatus 2 0
  else
    let s := { s with host := { s.host with clu := BitVec.ofNat 13 cl, cmd := BitVec.ofNat 2 cmd } }
    (act s).hostStatus 0 0

/-- A cluster that is ON begins to leave it; from IDLE or OFF the state changes at once (R267). -/
def leaveOn (s : State) (cl : Nat) (p : Power) : State :=
  if (s.cluster cl).power = .on then s.updCluster cl fun x => { x with trans := some (.leave p) } else s.setPower cl p

/-- The PIDs whose domains the cores of a cluster belong to. -/
def domainsOf (s : State) (cl : Nat) : List (BitVec 16) :=
  ((coresOf cl).filterMap fun c => (s.core c).joined.map fun _ => (s.core c).pid).eraseDups

/-- A cluster is reset with its error state, and its launch and domain lose it (R268, R271, R272). -/
def hardReset (s : State) (cl : Nat) (p : Power) : State :=
  let pids := s.domainsOf cl
  let placed := (s.cluster cl).placed
  let s := (coresOf cl).foldl (fun (s : State) c => s.leaveByReset c) s
  let s := (s.resetCluster cl false).setPower cl p
  let s := match placed with
    | some (id, _) => s.freeCluster cl id false
    | none => s
  pids.foldl (fun (s : State) q => s.boundary q) s

/-- Everything on a cluster that is leaving ON has ended: activations, send buffers, engine queues (R267). -/
def stopped (s : State) (cl : Nat) : Bool :=
  let x := s.cluster cl
  (coresOf cl).all s.quietCore && x.mxq.isEmpty && x.mxWait.isEmpty && x.cpq.isEmpty && x.cpWait.isEmpty

end State

/-- CLUSTER_ON: HCLCMD command 0 (R267). -/
def execClusterOn (cl : Nat) (s : State) : Out :=
  .next (s.clusterCommand cl 0 false fun s =>
    if (s.cluster cl).power = .on then s else s.updCluster cl fun x => { x with trans := some .wake })

/-- CLUSTER_IDLE: HCLCMD command 1 (R267). -/
def execClusterIdle (cl : Nat) (s : State) : Out := .next (s.clusterCommand cl 1 false fun s => s.leaveOn cl .idle)

/-- CLUSTER_OFF: HCLCMD command 2 (R267). -/
def execClusterOff (cl : Nat) (s : State) : Out := .next (s.clusterCommand cl 2 false fun s => s.leaveOn cl .off)

/-- CLUSTER_RESET: HCLCMD command 3, for an unplaced cluster or one with a retired core (R268). -/
def execClusterReset (cl : Nat) (s : State) : Out :=
  .next (s.clusterCommand cl 3 ((s.cluster cl).placed.isSome && !s.anyRetired cl) fun s => s.hardReset cl .on)

/-- CLUSTER_CLOCK_STOP: a cluster that leaves ON has come to rest (R267). -/
def execClusterClockStop (cl : Nat) (s : State) : Out :=
  match (s.cluster cl).trans with
  | some (.leave p) =>
    .next (if s.stopped cl then (s.updCluster cl fun x => { x with trans := none }).setPower cl p else s)
  | _ => .next s

/-- CLUSTER_WAKE: the return to ON is complete (R267). Boundaries that its cores have kept waiting are stretched (R266). -/
def execClusterWake (cl : Nat) (s : State) : Out :=
  match (s.cluster cl).trans with
  | some .wake =>
    let s := (coresOf cl).foldl (fun (s : State) c => s.markLate c) s
    .next (((s.updCluster cl fun x => { x with trans := none }).setPower cl .on).askLeave cl)
  | _ => .next s

/-- POWER_BUDGET_WRITE: HPBUD takes 900 to 4,200 W; every governor goes on with the new rate (R269, R270). -/
def execPowerBudgetWrite (v : Word) (s : State) : Out :=
  let w := fld v 0 13
  if w < 900 ∨ 4200 < w then .next (s.hostStatus 3 0)
  else
    let s := s.settleAll
    let s := { s with host := { s.host with watt := BitVec.ofNat 13 w } }
    .next (((List.range 8).foldl (fun (s : State) d => s.capCredit d) s).hostStatus 0 0)

/-! ## Temperature (R271, R272) -/

namespace State

/-- The launches that hold a cluster of a die. -/
def launchesOn (s : State) (die : Nat) : List Launch :=
  s.dist.placed.filter fun l => l.left.any fun c => dieOfCluster c == die

/-- A thermal trip: every cluster of the die is reset and OFF, and each launch that held one is removed (R271, R272). -/
def trip (s : State) (die : Nat) (temp : BitVec 8) : State :=
  let lost := s.launchesOn die
  let s := lost.foldl (fun (s : State) l => s.drainLaunch { l with left := l.left.filter fun c => dieOfCluster c != die } false 3) s
  let here := (s.clusters.filter fun e => dieOfCluster e.1 == die).map fun e => e.1
  let s := here.foldl (fun (s : State) cl =>
    (s.hardReset cl .off).updCluster cl fun x => { x with reportedFree := false, trans := none }) s
  let s := (s.updDie die fun d => { d with trip := true }).hostEvent .distributor unitDistributor 0 42 (w32 die) (temp.setWidth 32)
  (lost.map Launch.runs).eraseDups.foldl (fun (s : State) pid =>
    s.unitEvent .distributor unitDistributor 0 42 pid 0 (w32 die) (temp.setWidth 32)) s

end State

/-- THERMAL_SAMPLE: a die reads its junction temperature (R271). -/
def execThermalSample (die : Fin 8) (temp : BitVec 8) (s : State) : Out :=
  let d := s.die die.val
  let t := temp.toNat
  let live := s.clusters.any fun e => dieOfCluster e.1 == die.val && e.2.power != .off
  let s := s.updDie die.val fun d => { d with temp := temp, warn := if 105 ≤ t then true else if t < 100 then false else d.warn }
  let s := if 105 ≤ t ∧ d.temp.toNat < 105 then
    s.hostEvent .distributor unitDistributor 0 41 (w32 die.val) (temp.setWidth 32) else s
  .next (if 115 ≤ t ∧ (d.temp.toNat < 115 ∨ live) then s.trip die.val temp else s)

end Sys2Proof.Machine
end

