-- ==== Sys2Proof/Machine/Fabric.lean ====
section
/-! DEFINITION. Sys2Proof/Machine/Fabric.lean: what gateways, fabric ports and the host port do: frames (R254, R255, R262), delivery in order
and acknowledgements (R256, R257), resends and unreachable chips (R258), the exchange (R259), ports (R253). -/

namespace Sys2Proof.Machine

/-- The settings of a port before the host makes any: plain, no key, no VLAN. -/
def PortCfg.reset : PortCfg := ⟨false, [], none⟩

/-- PTYPE of a packet (R254). -/
def Packet.ptype : Packet → Nat
  | .msg _ => 0
  | .store _ => 1
  | .raw _ _ _ _ => 1
  | .accept _ _ _ _ _ _ _ => 2
  | .read _ _ => 3
  | .reply _ => 4
  | .lines _ _ => 5
  | .linesDone _ _ _ => 5
  | .control _ _ => 7
  | .ack => 8
  | _ => 6

/-- Class of a packet's connection (R256). -/
def Packet.cls : Packet → Fin 4
  | .msg m => m.connClass
  | .store _ => 2
  | .raw _ _ _ _ => 2
  | .accept _ _ _ _ _ _ _ => 2
  | .read _ _ => 2
  | .reply _ => 2
  | .lines _ _ => 2
  | .linesDone _ _ _ => 2
  | _ => 3

namespace State

/-- The settings of a fabric port, or of the host port as port 18 (R262). -/
def portSet (s : State) (p : Fin 19) : PortCfg := Tab.look PortCfg.reset s.portCfg p.val

/-- A counter that stops at its largest value. -/
def count32 (w : Word) : Word := if w = 0xFFFFFFFF then w else w + 1

/-! ## Delivery (R92, R101, R208, R256) -/

/-- A message without a way on this chip goes to the supervisor endpoint of its PID, or to the host (R92, R236); a continuation
for the host waits until it can be parked (R239). -/
def gatewayDivert (s : State) (m : Msg) : State :=
  if m.isRecord then s.toHost m.body
  else
    let d : Msg := if m.div then m else { m with div := true, old0 := m.h0, old1 := m.h1 }
    match if m.div then (s, Resolved.dead) else s.lookUpSupervisor m.pid m.stag with
    | (s, .dead) =>
      if d.long && !s.parkRoom 0 then s.waitRoom (.divert m) else
      let (r, s) := s.divertReport 0 d
      s.unitReport .gateway true r
    | (s, r) => s.send (d.to s.chip r)

/-- A message from another chip: the gateway fills DCORE and DKEY (R92); one that no core here takes is diverted. The copy of a SENDM is
for the members that lie here (R261). -/
def receiveMsg (s : State) (m : Msg) : State :=
  let m := { m with dchip := s.chip }
  match m.copy with
  | some num => s.receiveCopy m num.toNat
  | none =>
    let s := s.noteTables m.pid m.stag none (if m.goal.toNat < 40960 then some m.goal.toNat else none)
    if m.goal = 0xFFFF then { s with net := s.net ++ [{ m with dcore := 0xFFFF, dkey := 0 }] }
    else if !s.mapValid m.pid then s.gatewayDivert m
    else
      match s.coreOfL m.pid m.goal.toNat with
      | none => s.gatewayDivert m
      | some (c, k) => { s with net := s.net ++ [{ m with dcore := c, dkey := k }] }

/-- A line of an image is written raw, whatever WR holds, where this chip's entry of the page puts it (R86, R228). -/
def receiveRaw (s : State) (pid : BitVec 16) (va : BitVec 64) (rdie : BitVec 3) (ws : List Word) : State :=
  match s.findEntry (4 * rdie.toNat + selectorOf va) pid va with
  | none => s
  | some e =>
    if e.rmt then s
    else
      let p := e.place [va]
      { s with gmem := s.gmem.setWords (s.currentAddr p.code p.frame p.shadow (p.phys.headD 0)) ws }

/-- The peer core of a CPPUT from another chip (R92, R208); one that no core has is refused. -/
def deliverLines (s : State) (c : CpCmd) : State :=
  let s := s.noteTables c.by_.pid c.by_.tag none (if c.peer < 40960 then some c.peer else none)
  let (peer, key) := if s.mapValid c.by_.pid then (s.coreOfL c.by_.pid c.peer).getD (0xFFFE, 0) else (0xFFFE, 0)
  { s with deliveries := s.deliveries ++ [{ c with peer := peer.toNat, peerKey := key, entered := s.now - c.entered }] }

/-- Lines of a CPPUT from another chip: they join those that came before, and with the last packet the delivery is whole
(R208, R254). -/
def receiveLines (s : State) (c : CpCmd) (last : Bool) : State :=
  let mine (d : CpCmd) : Bool := d.from_ == c.from_
  let whole : CpCmd := { c with lines := ((s.parts.find? mine).elim [] CpCmd.lines) ++ c.lines }
  let rest := s.parts.filter fun d => !mine d
  if last then ({ s with parts := rest } : State).deliverLines whole else { s with parts := rest ++ [whole] }

/-- Packets that wait at a gateway are sent while fewer than 1,024 are unacknowledged and no exchange
goes on (R256, R259). -/
def sendWaiting (s : State) (chip : BitVec 22) (cls : Fin 4) : Nat → State
  | 0 => s
  | n + 1 =>
    let c := s.conn chip cls
    match c.waiting with
    | [] => s
    | p :: r =>
      if s.mayTransmit chip cls p then ((s.setConn { c with waiting := r }).transmit chip cls p).sendWaiting chip cls n else s

/-- The connection to the same chip whose packets may wait for those of a class (R137). -/
def otherClass (cls : Fin 4) : Fin 4 := if cls = 0 then 1 else if cls = 1 then 0 else cls

/-- The packets that waited for a connection go, on it and on the one that it may have kept waiting (R137, R256). -/
def connFreed (s : State) (chip : BitVec 22) (cls : Fin 4) : State :=
  let go (s : State) (k : Fin 4) : State := s.sendWaiting chip k (s.conn chip k).waiting.length
  go (go s cls) (otherClass cls)

/-- A packet takes effect on this chip. -/
def receive (s : State) (chip : BitVec 22) (p : Packet) : State :=
  match p with
  | .msg m => s.receiveMsg m
  | .store st => s.enterStore { st with from_ := st.from_.or (some chip) }
  | .raw pid va rdie ws => s.receiveRaw pid va rdie ws
  | .accept core _ _ seq status code replay =>
    match replay with
    | some r => s.replayOutcome r chip status (w32 code)
    | none => { s with notices := s.notices ++ [⟨core, seq, chip, status, code⟩] }
  | .read r rdie => { s with
      readId := s.readId + 1
      reads := s.reads ++ [{ r with
        id := s.readId, dest := .remote chip r.id, second := true, born := s.readId, at_ := none,
        station := some (4 * rdie.toNat + selectorOf r.va) }] }
  | .reply a =>
    match a.dest with
    | .remote _ id =>
      match s.reads.find? fun r => r.id == id with
      | none => s
      | some r => { s with
          reads := s.reads.filter fun x => x.id != id
          replies := s.replies ++ [⟨id, r.by_, r.va, r.tag, r.dest, a.res⟩] }
    | _ => s
  | .lines c last => s.receiveLines c last
  | .linesDone cl id st => s.linesEnded cl id st
  | .exchange cls false next =>
    let h := (s.recvs.find? fun r => r.chip == chip && r.cls == cls).elim 0xFFFFFFFF fun r => r.h
    let rest := s.recvs.filter fun r => !(r.chip == chip && r.cls == cls)
    ({ s with recvs := rest ++ [⟨chip, cls, next - 1, []⟩] } : State).gateway chip 3 (.exchange cls true h)
  | .exchange cls true h =>
    let c := s.conn chip cls
    (s.setConn { c with learned := updFirst (fun x => x.2.isNone) (fun x => (x.1, some h)) c.learned }).connFreed chip cls
  | p => s.treePacket chip p

/-- Take the packet of a number out of those held for a gap. -/
def takeHeld (q : Word) : List (Word × Packet) → Option (Packet × List (Word × Packet))
  | [] => none
  | (n, p) :: r => if n = q then some (p, r) else (takeHeld q r).map fun (x, l) => (x, (n, p) :: l)

/-- Write a receiver's connection. -/
def setRecv (s : State) (r : Recv) : State :=
  { s with recvs := (s.recvs.filter fun x => !(x.chip == r.chip && x.cls == r.cls)) ++ [r] }

/-- A number is acknowledged (R256). -/
def acknowledge (s : State) (chip : BitVec 22) (cls : Fin 4) (q : Word) : State := s.onWire chip cls q .ack

/-- Deliver what follows in sequence from the packets held (R256); n bounds their number. -/
def deliverHeld (s : State) (chip : BitVec 22) (cls : Fin 4) : Nat → State
  | 0 => s
  | n + 1 =>
    match s.recvs.find? fun r => r.chip == chip && r.cls == cls with
    | none => s
    | some r =>
      match takeHeld (r.h + 1) r.held with
      | none => s
      | some (p, l) =>
        let s := ((s.setRecv { r with h := r.h + 1, held := l }).acknowledge chip cls (r.h + 1)).receive chip p
        s.deliverHeld chip cls n

/-- A numbered packet has come (R256): delivered before, in order, or held for a gap. -/
def receiveNumbered (s : State) (chip : BitVec 22) (cls : Fin 4) (q : Word) (p : Packet) : State :=
  let r := (s.recvs.find? fun r => r.chip == chip && r.cls == cls).getD ⟨chip, cls, 0xFFFFFFFF, []⟩
  if seqLe q r.h then s.acknowledge chip cls q
  else if r.held.any fun x => x.1 == q then s
  else (s.setRecv { r with held := r.held ++ [(q, p)] }).deliverHeld chip cls (r.held.length + 1)

/-! ## Frames (R254, R255, R262) -/

/-- A frame is dropped by MACsec: its integrity check fails, or it comes plain to a port that encrypts or encrypted to one
that does not (R262). -/
def insecure (s : State) (f : Frame) : Bool :=
  f.encrypted != (s.portSet f.port).encrypt || (f.encrypted && !f.integrity)

/-- A frame has a form that is dropped and counted in HDROP (R254, R255): its version, its features, its packet type; host
control comes to the host port only. -/
def malformed (f : Frame) : Bool :=
  f.version != 1 || !f.supported || decide ((if f.port = 18 then 8 else 7) ≤ f.ptype) || f.ptype != f.pkt.ptype || f.cls != f.pkt.cls

/-- The checks of a port on a frame: what drops it is counted (R254, R255, R262), else it is taken. -/
def takeFrame (s : State) (f : Frame) (take : State → Out) : Out :=
  if s.insecure f then .next { s with host := { s.host with hsecerr := count32 s.host.hsecerr } }
  else if malformed f then .next { s with host := { s.host with hdrop := count32 s.host.hdrop } }
  else take s

/-- A message of the host, which is complete: it enters the mesh, or leaves for another chip through a gateway, with DCORE and DKEY
0 (R253, R254, R263). None is taken before the end of boot (R273). -/
def hostMessage (s : State) (m : Msg) : State :=
  if !s.host.booted then s
  else if m.dchip = s.chip then s.send { m with copy := none }
  else s.send { m with copy := none, dcore := 0, dkey := 0 }

end State

/-- FABRIC_PACKET_RECEIVE: a gateway takes the next frame of a fabric port (R254 to R257). One on a port that is down does not
arrive. -/
def execFabricPacketReceive (s : State) : Out :=
  match s.frames with
  | [] => .next s
  | f :: rest =>
    let s := { s with frames := rest }
    if !s.links.getLsbD f.port.val then .next s
    else s.takeFrame f fun s => .next (s.receiveNumbered f.chip f.cls f.seq f.pkt)

namespace State

/-- A packet is resent (R256); held while no port is up (R253). -/
def resend (s : State) (c : Conn) (u : Unacked) : State :=
  (s.setConn { c with unacked := c.unacked.map fun x =>
    if x.seq = u.seq then { x with resends := x.resends + 1, sentAt := s.now, held := s.portsUp.isEmpty } else x }).onWire c.chip c.cls u.seq u.pkt

/-- The connection is marked unreachable, and every pending packet meets its fate, in order (R258). -/
def giveUp (s : State) (c : Conn) : State :=
  let pend := c.unacked.map (fun u => (u.seq, u.pkt))
    ++ (List.range c.waiting.length).filterMap fun i => (c.waiting[i]?).map fun p => (c.next + w32 i, p)
  let s := s.setConn { c with unreachable := true, unacked := [], waiting := [], next := c.next + w32 c.waiting.length }
  (pend.foldl (fun (s : State) x => s.abandon c.chip c.cls x.1 x.2) s).connFreed c.chip (otherClass c.cls)

/-- The step that a decision names (R382): the one nearest to C with its low word. -/
def decisionStep (s : State) (r : DecisionReq) : Nat :=
  let c := (s.domain r.pid).c
  (c + (r.step - wInt c).toInt).toNat

/-- The step that a packet of the step tree is about, and the packet marked as one that stretches it (R258). -/
def treeStep (s : State) : Packet → Packet × Option (BitVec 16 × Nat)
  | .report pid t _ live => (.report pid t true live, some (pid, t))
  | .apply pid t _ => (.apply pid t true, some (pid, t))
  | .finished pid t _ => (.finished pid t true, some (pid, t))
  | .commit pid t _ => (.commit pid t true, some (pid, t))
  | .held pid t => (.held pid t, some (pid, t))
  | .abort pid t => (.abort pid t, some (pid, t))
  | .hold pid f add => (.hold pid f add, some (pid, f.step))
  | .holdKnown pid f => (.holdKnown pid f, some (pid, f.step))
  | .member pid live => (.member pid live, some (pid, s.openStep pid))
  | .decision r => (.decision r, some (r.pid, s.decisionStep r))
  | .decided r st => (.decided r st, some (r.pid, s.decisionStep r))
  | p => (p, none)

/-- A packet of the step tree that 8 resends have not brought over stretches its step (R114, R258): it says so where it can,
and this chip counts it. -/
def stretch (s : State) (c : Conn) (u : Unacked) : State :=
  let (p, step) := s.treeStep u.pkt
  let s := s.setConn { c with unacked := c.unacked.map fun x => if x.seq = u.seq then { x with pkt := p } else x }
  step.elim s fun x => s.stretchStep x.1 x.2

/-- What waits for room to be parked is tried again, in order (R239). -/
def retryLater (s : State) : State :=
  s.later.foldl (fun (s : State) x =>
    match x with
    | .abandoned chip cls seq p => s.abandon chip cls seq p
    | .divert m => s.gatewayDivert m) { s with later := [] }

end State

/-- ACKNOWLEDGEMENT_RECEIVE: a packet has been acknowledged; its place in the window is free (R256). -/
def execAcknowledgementReceive (chip : BitVec 22) (cls : Fin 4) (seq : BitVec 32) (s : State) : Out :=
  let c := s.conn chip cls
  if c.unacked.any fun u => u.seq == seq then
    .next ((s.setConn { c with unacked := c.unacked.filter fun u => u.seq != seq }).connFreed chip cls)
  else .next s

/-- 16 µs in cycles of 1.3 GHz (R256). -/
def resendCycles : Nat := 20800

/-- RESEND_TIMEOUT: the oldest packet of a connection that has had no acknowledgement for 16 µs is sent again, or after 8
resends given up; with no port up, at the eighth (R253, R256, R258). Step-tree packets go on, with event 44 after every 8
resends, and stretch their step. -/
def execResendTimeout (chip : BitVec 22) (cls : Fin 4) (s : State) : Out :=
  let c := s.conn chip cls
  match c.unacked.find? fun u => decide (resendCycles ≤ s.now - u.sentAt) with
  | none => .next s
  | some u =>
    if cls = 3 then
      if u.resends ≠ 0 ∧ u.resends % 8 = 0 then
        let s := (s.hostEvent .gateway unitGateway 0 44 (chip.setWidth 32) (w32 (u.resends / 8))).stretch c u
        let c := s.conn chip cls
        .next (s.resend c ((c.unacked.find? fun x => x.seq == u.seq).getD u))
      else .next (s.resend c u)
    else .next (if u.resends < 7 ∨ (u.resends = 7 ∧ !s.portsUp.isEmpty) then s.resend c u else s.giveUp c)

/-- A packet that a gateway held while no port was up goes onto the wire (R253). -/
def State.carryHeld (s : State) (c : Conn) : State :=
  let s := s.setConn { c with unacked := c.unacked.map fun u => { u with held := false } }
  (c.unacked.filter Unacked.held).foldl (fun (s : State) u => s.onWire c.chip c.cls u.seq u.pkt) s

/-- PORT_STATE_CHANGE: a fabric port goes down or comes up (R253), after the end of boot (R273). With the first port that comes
up, packets held while none was up are carried in sequence order. -/
def execPortStateChange (port : Fin 18) (up : Bool) (s : State) : Out :=
  let bit : BitVec 18 := 1 <<< port.val
  let links := if up then s.links ||| bit else s.links &&& ~~~bit
  if !s.host.booted then .next s
  else if s.portsUp.isEmpty && up then .next (s.conns.foldl (fun (s : State) c => s.carryHeld c) { s with links := links })
  else .next { s with links := links }

/-- HUNREACH_WRITE: the host clears the marks of a chip (R259, R264): the gateway exchanges a packet with the receiver of each
marked connection. What the connection is given meanwhile waits for the reply. -/
def execHunreachWrite (chip : BitVec 22) (s : State) : Out :=
  let s := { s with host := { s.host with hunreach := chip } }
  let marked := s.conns.filter fun c => c.chip == chip && c.unreachable
  .next ((marked.foldl (fun (s : State) c =>
    (s.setConn { c with unreachable := false, learned := (c.next, none) :: c.learned }).gateway chip 3
      (.exchange c.cls false c.next)) s).hostStatus 0 0)

end Sys2Proof.Machine
end

