-- ==== Sys2Proof/Machine/IntAlu.lean ====
section
/-! DEFINITION. Sys2Proof/Machine/IntAlu.lean: the integer instructions of page 0 (R296 to R299, R305, R306, R313,
R319, R338, R348, R359, R372, R381). None sets a flag, and none traps on a value. -/

namespace Sys2Proof.Machine

/-- The plan of an instruction that writes f of a and b to d. -/
def alu2 (d a b : Reg) (f : Word → Word → Word) : Plan where
  form := { a := .r a, b := .r b, dst := .r d }
  body := fun s v => .ok (s.write d (f v.wa v.wb))

/-- The plan of an instruction that writes f of a to d. -/
def alu1 (d a : Reg) (f : Word → Word) : Plan where
  form := { a := .r a, dst := .r d }
  body := fun s v => .ok (s.write d (f v.wa))

/-- The iterative unit of the issuing core is free (R48). -/
def iterFree (s : State) (_ : Vals) : Bool := (s.core s.cur.core).iter.isNone

/-- The iterative unit takes an instruction, with its result and flags (R319). -/
def startIter (s : State) (d : Reg) (r : FRes) : State :=
  s.updCore s.cur.core fun k => { k with iter := some ⟨s.cur.ctx, d, r.1, r.2, s.cur.pc⟩ }

/-- The plan of an instruction of the iterative unit with sources a and b. -/
def iter2 (d a b : Reg) (f : Word → Word → FRes) : Plan where
  form := { a := .r a, b := .r b, dst := .r d }
  ready := iterFree
  body := fun s v => .ok (startIter s d (f v.wa v.wb))

/-- The plan of an instruction of the iterative unit with source a. -/
def iter1 (d a : Reg) (f : Word → FRes) : Plan where
  form := { a := .r a, dst := .r d }
  ready := iterFree
  body := fun s v => .ok (startIter s d (f v.wa))

/-! ## Results -/

/-- DIVU: the unsigned quotient; all ones when the divisor is 0 (R319). -/
def divuWord (x y : Word) : Word := if y = 0 then 0xFFFF_FFFF else w32 (x.toNat / y.toNat)
/-- REMU: the unsigned remainder; x when the divisor is 0 (R348). -/
def remuWord (x y : Word) : Word := if y = 0 then x else w32 (x.toNat % y.toNat)
/-- MULH (R348). -/
def mulhWord (x y : Word) : Word := wInt (x.toInt * y.toInt / 2 ^ 32)
/-- MULHU (R348). -/
def mulhuWord (x y : Word) : Word := w32 (x.toNat * y.toNat / 2 ^ 32)
/-- The number of zero bits above the highest set bit; 32 for 0 (R313). -/
def clzWord (x : Word) : Word := if x = 0 then 32 else w32 (31 - Nat.log2 x.toNat)
/-- The number of 1 bits (R348). -/
def popcWord (x : Word) : Word := w32 ((List.range 32).filter fun i => x.getLsbD i).length
/-- The field of len bits of x at pos, extended with zeros (R305). -/
def bfxWord (imm : Nat) (x : Word) : Word := (x >>> (imm % 32)) &&& w32 (2 ^ (imm / 32 + 1) - 1)
/-- r with its len bits at pos replaced by the low bits of x (R305). -/
def bfiWord (imm : Nat) (x r : Word) : Word :=
  let m : Word := w32 (2 ^ (imm / 32 + 1) - 1)
  (r &&& ~~~(m <<< (imm % 32))) ||| ((x &&& m) <<< (imm % 32))

/-! ## Register operations (R296, R348, R372) -/

/-- ADD (R296). -/
def execAdd (d a b : Reg) (s : State) : Out := issue (alu2 d a b fun x y => x + y) s
/-- SUB (R372). -/
def execSub (d a b : Reg) (s : State) : Out := issue (alu2 d a b fun x y => x - y) s
/-- AND (R296). -/
def execAnd (d a b : Reg) (s : State) : Out := issue (alu2 d a b fun x y => x &&& y) s
/-- OR (R348). -/
def execOr (d a b : Reg) (s : State) : Out := issue (alu2 d a b fun x y => x ||| y) s
/-- XOR (R411). -/
def execXor (d a b : Reg) (s : State) : Out := issue (alu2 d a b fun x y => x ^^^ y) s
/-- SHL: bits [31:5] of the amount are ignored (R372). -/
def execShl (d a b : Reg) (s : State) : Out := issue (alu2 d a b fun x y => x <<< (y.toNat % 32)) s
/-- SHR (R372). -/
def execShr (d a b : Reg) (s : State) : Out := issue (alu2 d a b fun x y => x >>> (y.toNat % 32)) s
/-- SRA (R372). -/
def execSra (d a b : Reg) (s : State) : Out := issue (alu2 d a b fun x y => x.sshiftRight (y.toNat % 32)) s
/-- MUL (R348). -/
def execMul (d a b : Reg) (s : State) : Out := issue (alu2 d a b fun x y => x * y) s
/-- MULH (R348). -/
def execMulh (d a b : Reg) (s : State) : Out := issue (alu2 d a b mulhWord) s
/-- MULHU (R348). -/
def execMulhu (d a b : Reg) (s : State) : Out := issue (alu2 d a b mulhuWord) s
/-- MIN (R348). -/
def execMin (d a b : Reg) (s : State) : Out := issue (alu2 d a b (sMinMax false)) s
/-- MAX (R348). -/
def execMax (d a b : Reg) (s : State) : Out := issue (alu2 d a b (sMinMax true)) s
/-- MINU (R348). -/
def execMinu (d a b : Reg) (s : State) : Out := issue (alu2 d a b (uMinMax false)) s
/-- MAXU (R348). -/
def execMaxu (d a b : Reg) (s : State) : Out := issue (alu2 d a b (uMinMax true)) s
/-- SLT (R372). -/
def execSlt (d a b : Reg) (s : State) : Out := issue (alu2 d a b fun x y => boolWord (decide (x.toInt < y.toInt))) s
/-- SLTU (R372). -/
def execSltu (d a b : Reg) (s : State) : Out := issue (alu2 d a b fun x y => boolWord (decide (x.toNat < y.toNat))) s
/-- SEQ (R372). -/
def execSeq (d a b : Reg) (s : State) : Out := issue (alu2 d a b fun x y => boolWord (x == y)) s
/-- DIVU, in the iterative unit (R319). -/
def execDivu (d a b : Reg) (s : State) : Out := issue (iter2 d a b fun x y => (divuWord x y, 0)) s
/-- REMU, in the iterative unit (R348). -/
def execRemu (d a b : Reg) (s : State) : Out := issue (iter2 d a b fun x y => (remuWord x y, 0)) s
/-- CLZ (R313). -/
def execClz (d a : Reg) (s : State) : Out := issue (alu1 d a clzWord) s
/-- POPC (R348). -/
def execPopc (d a : Reg) (s : State) : Out := issue (alu1 d a popcWord) s

/-- SEL reads d as its condition, after a and b (R372, R373). -/
def execSel (d a b : Reg) (s : State) : Out :=
  issue { form := { a := .r a, b := .r b, d := .r d, dst := .r d },
          body := fun s v => .ok (s.write d (if v.wd ≠ 0 then v.wa else v.wb)) } s

/-! ## Bit fields and immediates (R298, R305, R338, R359, R381) -/

/-- BFX (R305). -/
def execBfx (d a : Reg) (imm : Int) (s : State) : Out := issue (alu1 d a (bfxWord imm.toNat)) s

/-- BFI reads d (R305). -/
def execBfi (d a : Reg) (imm : Int) (s : State) : Out :=
  issue { form := { a := .r a, d := .r d, dst := .r d },
          body := fun s v => .ok (s.write d (bfiWord imm.toNat v.wa v.wd)) } s

/-- ADDI (R298). -/
def execAddi (d a : Reg) (imm : Int) (s : State) : Out := issue (alu1 d a fun x => x + wInt imm) s
/-- ANDI (R298). -/
def execAndi (d a : Reg) (imm : Int) (s : State) : Out := issue (alu1 d a fun x => x &&& wInt imm) s
/-- ORI (R359). -/
def execOri (d a : Reg) (imm : Int) (s : State) : Out := issue (alu1 d a fun x => x ||| wInt imm) s
/-- XORI (R411). -/
def execXori (d a : Reg) (imm : Int) (s : State) : Out := issue (alu1 d a fun x => x ^^^ wInt imm) s
/-- SHLI (R381). -/
def execShli (d a : Reg) (imm : Int) (s : State) : Out := issue (alu1 d a fun x => x <<< (imm.toNat % 32)) s
/-- SHRI (R381). -/
def execShri (d a : Reg) (imm : Int) (s : State) : Out := issue (alu1 d a fun x => x >>> (imm.toNat % 32)) s
/-- SRAI (R381). -/
def execSrai (d a : Reg) (imm : Int) (s : State) : Out := issue (alu1 d a fun x => x.sshiftRight (imm.toNat % 32)) s
/-- SLTI (R381). -/
def execSlti (d a : Reg) (imm : Int) (s : State) : Out :=
  issue (alu1 d a fun x => boolWord (decide (x.toInt < imm))) s

/-- LDI (R338). -/
def execLdi (d : Reg) (imm : Int) (s : State) : Out :=
  issue { form := { dst := .r d }, body := fun s _ => .ok (s.write d (wInt imm)) } s

/-- LDHI replaces bits [31:16] of d (R338). -/
def execLdhi (d : Reg) (imm : Int) (s : State) : Out :=
  issue { form := { d := .r d, dst := .r d },
          body := fun s v => .ok (s.write d (wInt (imm * 2 ^ 16) + (v.wd &&& 0xFFFF))) } s

end Sys2Proof.Machine
end

