-- ==== Sys2Proof/Machine/Float.lean ====
section
/-! DEFINITION. Sys2Proof/Machine/Float.lean: the scalar floating-point instructions of page 1 (R323 to R329, R392,
R393). Each sets FFLAGS at commit (R159); none traps on a floating-point condition. -/

namespace Sys2Proof.Machine

/-- A result and its flags are committed. -/
def putFloat (s : State) (d : Reg) (r : FRes) : State := (s.write d r.1).addFlags r.2

/-- The plan of a floating-point instruction with sources a and b. -/
def float2 (d a b : Reg) (f : Word → Word → FRes) : Plan where
  form := { a := .r a, b := .r b, dst := .r d }
  body := fun s v => .ok (putFloat s d (f v.wa v.wb))

/-- The plan of a floating-point instruction with source a. -/
def float1 (d a : Reg) (f : Word → FRes) : Plan where
  form := { a := .r a, dst := .r d }
  body := fun s v => .ok (putFloat s d (f v.wa))

/-- The plan of TWOSUM and TWOPROD: a pair, and the flags of its high part (R393). -/
def floatPair (d : Pair) (a b : Reg) (f : Word → Word → Word × Word × Flags) : Plan where
  form := { a := .r a, b := .r b, dst := .p d }
  body := fun s v =>
    let (hi, lo, fl) := f v.wa v.wb
    .ok ((s.writePair d hi lo).addFlags fl)

/-- FADD (R324). -/
def execFadd (d a b : Reg) (r : Rnd) (s : State) : Out := issue (float2 d a b (fAdd r)) s
/-- FSUB (R324). -/
def execFsub (d a b : Reg) (r : Rnd) (s : State) : Out := issue (float2 d a b (fSub r)) s
/-- FMUL (R324). -/
def execFmul (d a b : Reg) (r : Rnd) (s : State) : Out := issue (float2 d a b (fMul r)) s

/-- FFMA reads d as its addend, after a and b (R324, R329). -/
def execFfma (d a b : Reg) (r : Rnd) (s : State) : Out :=
  issue { form := { a := .r a, b := .r b, d := .r d, dst := .r d },
          body := fun s v => .ok (putFloat s d (fFma r v.wa v.wb v.wd)) } s

/-- FDIV, in the iterative unit (R319, R324). -/
def execFdiv (d a b : Reg) (r : Rnd) (s : State) : Out := issue (iter2 d a b (fDiv r)) s
/-- FSQRT, in the iterative unit. -/
def execFsqrt (d a : Reg) (r : Rnd) (s : State) : Out := issue (iter1 d a (fSqrt r)) s
/-- FMIN (R325). -/
def execFmin (d a b : Reg) (s : State) : Out := issue (float2 d a b (fMinMax false)) s
/-- FMAX (R325). -/
def execFmax (d a b : Reg) (s : State) : Out := issue (float2 d a b (fMinMax true)) s
/-- FEQ (R325). -/
def execFeq (d a b : Reg) (s : State) : Out := issue (float2 d a b (fCompare .eq)) s
/-- FLT (R325). -/
def execFlt (d a b : Reg) (s : State) : Out := issue (float2 d a b (fCompare .lt)) s
/-- FLE (R325). -/
def execFle (d a b : Reg) (s : State) : Out := issue (float2 d a b (fCompare .le)) s
/-- FCLASS (R326). -/
def execFclass (d a : Reg) (s : State) : Out := issue (float1 d a fun x => (fClass x, 0)) s
/-- FTOI; SAT has no effect (R323, R327). -/
def execFtoi (d a : Reg) (r : Rnd) (_sat : Bool) (s : State) : Out := issue (float1 d a (fToI r)) s
/-- ITOF; SAT has no effect (R323, R327). -/
def execItof (d a : Reg) (r : Rnd) (_sat : Bool) (s : State) : Out := issue (float1 d a (iToF r)) s

/-- FCVT; rounding mode 5 takes a draw when the value is not exact (R328). -/
def execFcvt (d a : Reg) (r : Rnd) (sat : Bool) (dst src : Fmt) (s : State) : Out :=
  issue { form := { a := .r a, dst := .r d },
          body := fun s v =>
            let (x, s) := s.convertDraw (clusterOf s.cur.core) src dst r sat (v.wa.toNat % 2 ^ src.width)
            .ok (putFloat s d (placeBits dst x.bits, x.flags)) } s

/-- FEXP2, in the iterative unit (R163). -/
def execFexp2 (d a : Reg) (r : Rnd) (s : State) : Out := issue (iter1 d a (fExp2 r)) s
/-- FLOG2, in the iterative unit (R163). -/
def execFlog2 (d a : Reg) (r : Rnd) (s : State) : Out := issue (iter1 d a (fLog2 r)) s
/-- FRCP, in the iterative unit (R163). -/
def execFrcp (d a : Reg) (r : Rnd) (s : State) : Out := issue (iter1 d a (fRcp r)) s
/-- FRSQ, in the iterative unit (R163). -/
def execFrsq (d a : Reg) (r : Rnd) (s : State) : Out := issue (iter1 d a (fRsq r)) s
/-- TWOSUM (R392). -/
def execTwosum (d : Pair) (a b : Reg) (s : State) : Out := issue (floatPair d a b twoSum) s
/-- TWOPROD (R392). -/
def execTwoprod (d : Pair) (a b : Reg) (s : State) : Out := issue (floatPair d a b twoProd) s

end Sys2Proof.Machine
end

