-- ==== Sys2Proof/Machine/Global.lean ====
section
/-! DEFINITION. Sys2Proof/Machine/Global.lean: the global reads GLD and GLDD (R332, R333) and the far stores GST, GSTD and
GSTMC (R334, R335). -/

namespace Sys2Proof.Machine

/-! ## Reads -/

/-- Reads of the issuing context that are outstanding (R333). -/
def readsOpen (s : State) : Nat :=
  (s.act s.cur.core s.cur.ctx).elim 0 fun a => (a.reads.filter fun m => m.fault.isNone).length

/-- Mark registers awaiting a reply, and send the read to the translating station of the core's die (R81, R332). -/
def sendRead (s : State) (regs : List (Fin 16)) (va : BitVec 64) (n : Nat) : State :=
  let core := s.cur.core
  let i := s.issuer
  let id := s.readId
  let s := s.updAct core s.cur.ctx fun a => { a with reads := a.reads ++ [⟨id, regs, s.cur.pc, none⟩] }
  { s with
    readId := id + 1
    reads := s.reads ++ [⟨id, i, va, n, i.tag, .gld id regs, id, some (State.stationOf (dieOfCore core) va), none, false, false⟩] }

/-- The plan of a global read of n words into registers. -/
def readPlan (dst : Opd) (a : Pair) (n : Nat) : Plan where
  form := { a := .p a, dst := dst }
  late := fun _ v => vaTrap v.a (4 * n)
  ready := fun s _ => decide (readsOpen s < 8)
  body := fun s v => .ok (sendRead s (dst.regs.filterMap fun
    | .g k => some k
    | _ => none) v.pa n)

/-- GLD (R332). -/
def execGld (d : Reg) (a : Pair) (s : State) : Out := issue (readPlan (.r d) a 1) s
/-- GLDD (R332). -/
def execGldd (d a : Pair) (s : State) : Out := issue (readPlan (.p d) a 2) s

/-! ## Far stores -/

/-- The far-store window of the issuing core has a place (R102). -/
def windowRoom (s : State) (_ : Vals) : Bool :=
  decide ((s.pending.filter fun p => p.core == s.cur.core && p.cmd.isNone).length < 64)

/-- The order key of a far store: the low half of e, 0 when it is absent (R334). -/
def orderKey (v : Vals) : BitVec 16 := v.we.extractLsb' 0 16

/-- A far store of the issuing context, with the next far-store number of its core (R101). -/
def farStore (s : State) (kind : StoreKind) (key : BitVec 16) (va : BitVec 64) (words : List (BitVec 64 × Word)) :
    FarStore where
  kind := kind
  by_ := s.issuer
  key := key
  seq := (s.core s.cur.core).farSeq
  va := va
  words := words
  p := false
  pairs := kind == .gstd
  stallmax := (s.core s.cur.core).stallmax
  born := s.readId
  cmd := none
  place := .translate (State.stationOf (dieOfCore s.cur.core) va)
  second := false
  from_ := none
  replay := none
  stalled := false

/-- A request with its number counts as outstanding until each of its chips has accepted it (R97, R102). -/
def State.awaitStore (s : State) (st : FarStore) (chips : List (BitVec 22)) : State :=
  let s := s.updCore st.by_.core fun k => { k with farSeq := k.farSeq + 1 }
  if chips.isEmpty then s
  else { s with pending := s.pending ++ [{
    core := st.by_.core, ctx := st.by_.ctx, pid := st.by_.pid, seq := st.seq, tag := st.by_.tag, cmd := st.cmd, chips := chips,
    store := if st.kind = .gstmc then some st else none, failed := [] }] }

/-- A far store travels to its translating station (R101). -/
def State.sendStore (s : State) (st : FarStore) : State :=
  (s.awaitStore st [s.chip]).enterStore st

/-- The plan of GST and GSTD. -/
def storeFar (d : Opd) (a : Pair) (e : Reg) (kind : StoreKind) (n : Nat) : Plan where
  form := { a := .p a, e := .r e, d := d }
  late := fun _ v => vaTrap v.a (4 * n)
  seals := fun _ _ => true
  ready := windowRoom
  body := fun s v =>
    let ws : List (BitVec 64 × Word) := (v.pa, v.wd) :: (if n = 2 then [(v.pa + 4, (v.d.getD (0, 0)).2)] else [])
    .ok (s.sendStore (farStore s kind (orderKey v) v.pa ws))

/-- GST (R334). -/
def execGst (d : Reg) (a : Pair) (e : Reg) (s : State) : Out := issue (storeFar (.r d) a e .gst 1) s
/-- GSTD: the low word at the VA (R334). -/
def execGstd (d a : Pair) (e : Reg) (s : State) : Out := issue (storeFar (.p d) a e .gstd 2) s

/-- The distinct member chips of a group, as a core reads them, its reads checked (R76, R261): 0xFFFE stands for SVEP and SVEPH (R90). A member whose rank
names no chip makes no copy (assumption 22). -/
def memberChips (s : State) (core num : Nat) : State × List (BitVec 22) :=
  let k := s.core core
  let tag := s.stepTag core
  let (s, l) := s.groupMembers k.pid tag num
  let ranks := l.map fun m => (if m.1 = 0xFFFE then k.svchip else m.2).toNat
  let s := ranks.foldl (fun (s : State) r => s.noteTables k.pid tag (some r) none) s
  (s, (ranks.filterMap (s.chipOf k.pid)).eraseDups)

/-- One copy for each member chip: on this chip at its station, for another chip on its way there (R141, R261). -/
def sendCopies (s : State) (st : FarStore) (chips : List (BitVec 22)) : State :=
  chips.foldl (fun (s : State) chip =>
    s.enterStore (if chip = s.chip then st else { st with place := .away chip (State.stationAt st) })) (s.awaitStore st chips)

/-- GSTMC (R334, R335). -/
def execGstmc (d a : Pair) (b e : Reg) (s : State) : Out :=
  issue { form := { a := .p a, b := .r b, e := .r e, d := .p d },
          early := fun s v => illIf s (badGroup v.d),
          late := fun s v =>
            (match v.d with
              | none => none
              | some g => if s.groupValid (s.core s.cur.core).pid (g.1.extractLsb' 0 12).toNat then none
                          else some (deadTrap g)).or (vaTrap v.a 4),
          seals := fun _ _ => true,
          ready := windowRoom,
          body := fun s v =>
            let num := (v.wd.extractLsb' 0 12).toNat
            let (s, chips) := memberChips s s.cur.core num
            .ok (sendCopies s (farStore s .gstmc (orderKey v) v.pa [(v.pa, v.wb)]) chips) } s

end Sys2Proof.Machine
end

