-- ==== Sys2Proof/Machine/Host.lean ====
section
/-! DEFINITION. Sys2Proof/Machine/Host.lean: host control (R264, R269), sump quotas (R20, R118), keys (R262), attestation
(R265), chip reset and boot (R266, R273). -/

namespace Sys2Proof.Machine

namespace State

/-! ## The registers of host control (R264, R269) -/

/-- Bits, least significant first, as a number. -/
def bitsNat (l : List Bool) : Nat := ((List.range l.length).map fun i => if l.getD i false then 2 ^ i else 0).sum

/-- The hottest die: its number and temperature; the lowest number on a tie. -/
def hottest (s : State) : Nat × Nat :=
  (List.range 8).foldl (fun b d => if b.2 < (s.die d).temp.toNat then (d, (s.die d).temp.toNat) else b) (0, (s.die 0).temp.toNat)

/-- The code of a power state in HCLSTAT.ST, as CMD names it. -/
def powerCode : Power → Nat
  | .on => 0 | .idle => 1 | .off => 2

/-- What a register of host control reads; none for a number that is not defined. -/
def hostReg (s : State) (r : Nat) : Option Word :=
  let h := s.host
  let x := s.cluster h.clu.toNat
  match r with
  | 0x00 => some (w32 s.hostRecs.length)
  | 0x01 => some h.hlost
  | 0x02 => some (s.links.setWidth 32)
  | 0x03 => some h.hsecerr
  | 0x04 => some (h.hunreach.setWidth 32)
  | 0x05 => some h.hdrop
  | 0x10 => some (w32 (h.clu.toNat + 2 ^ 13 * h.cmd.toNat))
  | 0x11 => some (w32 (powerCode x.power + bitsNat [false, false, x.trans.isSome, x.placed.isSome, s.anyRetired h.clu.toNat]))
  | 0x12 => some (h.watt.setWidth 32)
  | 0x13 =>
    let (d, t) := s.hottest
    some (w32 (t + 2 ^ 8 * d + 2 ^ 11 * bitsNat ((List.range 8).map fun i => decide (105 ≤ (s.die i).temp.toNat))
      + 2 ^ 19 * bitsNat ((List.range 8).map fun i => (s.die i).trip)))
  | _ => none

/-- A host control frame reads a register (R264): its value; one that is not defined returns 0 with status 2 (R269). -/
def hostRead (s : State) (r : Nat) : State :=
  match s.hostReg r with
  | some v => s.hostStatus 0 v
  | none => s.hostStatus 2 0

/-- Clear the TRIP bits that a write of HTEMP names (W1C). -/
def clearTrips (s : State) (v : Word) : State :=
  (List.range 8).foldl (fun (s : State) d =>
    if v.getLsbD (19 + d) then s.updDie d fun x => { x with trip := false } else s) s

end State

/-- HOST_REGISTER_WRITE: a host control frame writes a register (R264, R269). RO registers ignore it; a register with a
row of its own acts as that row says; one that is not defined is refused. -/
def execHostRegisterWrite (reg : Nat) (v : Word) (s : State) : Out :=
  let done (s : State) : Out := .next (s.hostStatus 0 ((s.hostReg reg).getD 0))
  match reg with
  | 0x01 => done { s with host := { s.host with hlost := s.host.hlost &&& ~~~v } }
  | 0x03 => done { s with host := { s.host with hsecerr := s.host.hsecerr &&& ~~~v } }
  | 0x05 => done { s with host := { s.host with hdrop := s.host.hdrop &&& ~~~v } }
  | 0x13 => done (s.clearTrips v)
  | 0x04 => execHunreachWrite (v.extractLsb' 0 22) s
  | 0x12 => execPowerBudgetWrite v s
  | 0x10 =>
    let cl := fld v 0 13
    match fld v 13 2 with
    | 0 => execClusterOn cl s
    | 1 => execClusterIdle cl s
    | 2 => execClusterOff cl s
    | _ => execClusterReset cl s
  | r => if (s.hostReg r).isSome then done s else .next (s.hostStatus 2 0)

/-- A frame of the host port (R254, R255, R262, R263): one that its checks drop is counted; a message of the host, or a host
control frame that reads or writes a register (R264). A frame of another packet type that the checks let pass is ignored and not
counted (assumption 92). -/
def hostFrame (f : Frame) (s : State) : Out :=
  s.takeFrame f fun s =>
    match f.pkt with
    | .msg m => .next (s.hostMessage m)
    | .control reg none => .next (s.hostRead reg)
    | .control reg (some v) => execHostRegisterWrite reg v s
    | _ => .next s

/-! ## Quotas and keys -/

/-- The largest quota of a sump: 16 GiB for messages (R20), 64 GiB for staging (R117). -/
def quotaLimit (stage : Bool) : Nat := if stage then 2 ^ 36 else 2 ^ 34

/-- Set a sump quota of a die. -/
def State.setQuota (s : State) (die : Nat) (stage : Bool) (bytes : Nat) : State :=
  if quotaLimit stage < bytes then s.hostStatus 3 0
  else
    (s.updDie die fun d => if stage then { d with stageQuota := bytes } else { d with sumpQuota := bytes }).hostStatus 0 0

/-- HOST_SUMP_QUOTA: the host sets or enlarges a sump of a die (R20, R118). -/
def execHostSumpQuota (die : Fin 8) (stage : Bool) (bytes : Nat) (s : State) : Out :=
  .next (s.setQuota die.val stage bytes)

/-- Change the settings of a fabric port, or of the host port as port 18. -/
def State.updPort (s : State) (p : Fin 19) (f : PortCfg → PortCfg) : State :=
  { s with portCfg := s.portCfg.put PortCfg.reset p.val (f (s.portSet p)) }

/-- Bytes of a key of GCM-AES-XPN-256 (R262). -/
def keyBytes : Nat := 32

/-- Load the key of a port. -/
def State.setKey (s : State) (p : Fin 19) (k : List Byte) : State :=
  if k.length ≠ keyBytes then s.hostStatus 3 0 else (s.updPort p fun c => { c with key := k }).hostStatus 0 0

/-- REKEY: the host gives a port that encrypts a new key (R262). -/
def execRekey (port : Fin 19) (key : List Byte) (s : State) : Out :=
  .next (if (s.portSet port).encrypt then s.setKey port key else s.hostStatus 2 0)

/-! ## Attestation (R265) -/

/-- A number as n bytes, least significant first. -/
def natBytes : Nat → Nat → List Byte
  | 0, _ => []
  | n + 1, x => BitVec.ofNat 8 x :: natBytes n (x / 256)

/-- The fields of an attestation report in the order in which R265 lists them (assumption 13). -/
def State.reportBody (s : State) (nonce : List Byte) : List Byte :=
  Config.identityCertificate s.chip.toNat ++ s.host.digests.flatMap (fun d => d)
    ++ (List.finRange 19).map (fun p => if (s.portSet p).encrypt then 1 else 0)
    ++ (List.range 8).flatMap (fun d => natBytes 8 (s.die d).sumpQuota ++ natBytes 8 (s.die d).stageQuota)
    ++ nonce

/-- ATTESTATION_REQUEST: the chip answers a nonce of 32 bytes with a signed report (R265). -/
def execAttestationRequest (nonce : List Byte) (s : State) : Out :=
  if nonce.length ≠ 32 then .next (s.hostStatus 2 0)
  else
    let b := s.reportBody nonce
    .next { s with hostOut := s.hostOut ++ [.report (b ++ Config.attestSignature b)] }

/-! ## Chip reset and boot (R266, R273) -/

/-- CHIP_RESET: the machine as after reset, its clock with it (R63, R270); the chip keeps its number and what its global memory
holds (assumption 8), and the model its schedule and outputs. -/
def execChipReset (s : State) : Out :=
  .next { State.reset with
    chip := s.chip, gmem := s.gmem, turns := s.turns, focus := s.focus, free := s.free
    hostOut := s.hostOut, wireOut := s.wireOut }

/-- The firmware images with one more: in the place of the first that has been discarded, else at the end. -/
def addImage (x : List Byte × List Byte) : List (Option (List Byte × List Byte)) → List (Option (List Byte × List Byte))
  | [] => [some x]
  | none :: r => some x :: r
  | y :: r => y :: addImage x r

/-- Stage 3 of boot (R273): each image's signature is verified. One that fails is discarded, and the stage repeats; when all pass,
their digests are recorded and stage 4 follows. -/
def State.verifyImages (s : State) : State :=
  let ok := s.host.images.map fun x => x.filter fun i => Config.imageSignatureOk i.1 i.2
  if ok.all Option.isSome then
    ({ s with host := { s.host with
        stage := 4, images := ok, digests := ok.filterMap fun x => x.map fun i => Config.digest i.1 } } : State).hostStatus 0 0
  else ({ s with host := { s.host with images := ok } } : State).hostStatus 2 0

/-- BOOT_STAGE: the next stage of boot (R273): stage 1 loads the base-die firmware, stage 2 the station firmware, and stage 3
verifies what has been loaded, with the image that takes the place of one discarded. An image of no bytes is not loaded: the
stage stays, status 2. -/
def execBootStage (image signature : List Byte) (s : State) : Out :=
  if 4 ≤ s.host.stage ∨ (s.host.stage ≤ 2 ∧ image = []) then .next (s.hostStatus 2 0)
  else if s.host.stage ≤ 2 then
    .next (({ s with host := { s.host with
      stage := s.host.stage + 1, images := s.host.images ++ [some (image, signature)] } } : State).hostStatus 0 0)
  else
    .next (({ s with host := { s.host with
      images := if s.host.images.all Option.isSome then s.host.images else addImage (image, signature) s.host.images } } : State).verifyImages)

/-- END_OF_BOOT: the attested fields are fixed and the fabric ports come up (R273). -/
def execEndOfBoot (s : State) : Out :=
  if s.host.stage ≠ 4 then .next (s.hostStatus 2 0)
  else
    .next (({ s with
      links := BitVec.allOnes 18, host := { s.host with stage := 5, booted := true } } : State).hostStatus 0 0)

/-- A map record that the host writes at boot: the form of R91 with SUP = 1. -/
def bootRecordOk (ws : List Word) : Bool :=
  ws.length == 8 && (ws.getD 7 0).getLsbD 1 && !recordBad ws

/-- HOST_BOOT_SETTING: at stage 4 the host sets policies, keys, VLANs, quotas and map records of supervisor PIDs (R273). -/
def execHostBootSetting (h : BootSetting) (s : State) : Out :=
  if s.host.stage ≠ 4 then .next (s.hostStatus 2 0)
  else
    match h with
    | .policy p e => .next ((s.updPort p fun c => { c with encrypt := e }).hostStatus 0 0)
    | .key p k => .next (s.setKey p k)
    | .vlan p v => .next ((s.updPort p.castSucc fun c => { c with vlan := v }).hostStatus 0 0)
    | .messageSump d n => .next (s.setQuota d.val false n)
    | .stageSump d n => .next (s.setQuota d.val true n)
    | .mapRecord pid ws =>
      .next (if bootRecordOk ws then
        ({ s with gmem := s.gmem.setWords (mapRecordAt pid) ws } : State).hostStatus 0 0
      else s.hostStatus 2 0)

end Sys2Proof.Machine
end

