-- ==== Sys2Proof/Machine/LoadStore.lean ====
section
/-! DEFINITION. Sys2Proof/Machine/LoadStore.lean: scalar loads (R339 to R342), stores (R384 to R386), the line
instructions (R311, R312, R378, R379) and the pointer instructions (R360, R361). -/

namespace Sys2Proof.Machine

namespace State

/-- The effective address of a memory operand of an access size (R53). -/
def ea (s : State) (m : MemOp) (size : Nat) : Word :=
  (s.ctx s.cur.core s.cur.ctx).pa[m.p] + wInt (m.off * size)

/-- The pointer advances by its stride when the operand has P = 1 (R53). -/
def post (s : State) (m : MemOp) : State :=
  if m.post then s.updCtx s.cur.core s.cur.ctx fun x => x.bump m.p else s

end State

/-- ALIGN and LADDR of an access of size bytes (R53). -/
def accessTrap (ea : Word) (size : Nat) : Option TrapInfo :=
  if ea.toNat % size ≠ 0 then some ⟨4, ea, 0⟩ else if !localOk ea.toNat size then some ⟨3, ea, 0⟩ else none

/-- UE at a local address: the address of the word, and an element index (R232). -/
def ueTrap (ea : Nat) (i : Nat) : TrapInfo := ⟨8, w32 (ea - ea % 4), w32 i⟩

/-! ## Loads (R339 to R342) -/

/-- The plan of a load of up to one word; acq: LDS, an acquire, which waits until the line is full (R130, R341). In a late turn a load
of the scratchpad performs afterwards (R129). -/
def loadPlan (d : Reg) (m : MemOp) (size : Nat) (acq : Bool) (part : LoadPart) : Plan where
  form := { dst := .r d }
  late := fun s _ => accessTrap (s.ea m size) size
  ready := fun s _ => !acq || s.isFull s.cur.core (s.ea m size).toNat
  body := fun s _ =>
    let core := s.cur.core
    let c := s.cur.ctx
    let a := (s.ea m size).toNat
    if !acq && s.mayLoadLate core c a d then .ok ((s.loadLater core c a part d).post m)
    else
      let (s, w, bad) := (if acq then s.acquire core c else s).readScalar core c a
      if bad then .trap s (ueTrap a 0) else .ok ((s.write d (part.of w a)).post m)

/-- LDW (R339). -/
def execLdw (d : Reg) (m : MemOp) (s : State) : Out := issue (loadPlan d m 4 false .word) s
/-- LDH (R339). -/
def execLdh (d : Reg) (m : MemOp) (s : State) : Out := issue (loadPlan d m 2 false .half) s
/-- LDHU (R339). -/
def execLdhu (d : Reg) (m : MemOp) (s : State) : Out := issue (loadPlan d m 2 false .halfU) s
/-- LDB (R339). -/
def execLdb (d : Reg) (m : MemOp) (s : State) : Out := issue (loadPlan d m 1 false .byte) s
/-- LDBU (R339). -/
def execLdbu (d : Reg) (m : MemOp) (s : State) : Out := issue (loadPlan d m 1 false .byteU) s
/-- LDS (R341). -/
def execLds (d : Reg) (m : MemOp) (s : State) : Out := issue (loadPlan d m 4 true .word) s

/-- A register of a pair: the low or the high one. -/
def Pair.reg : Pair → Bool → Reg
  | .even k, false => .g ⟨2 * k.val, by omega⟩
  | .even k, true => .g ⟨2 * k.val + 1, by omega⟩
  | .zr, _ => .zr

/-- LDD: two word accesses, the word at ea into d (R339, R340). In a late turn those of the scratchpad perform afterwards, in either
order (R125, R129). -/
def execLdd (d : Pair) (m : MemOp) (s : State) : Out :=
  issue { form := { dst := .p d },
          late := fun s _ => accessTrap (s.ea m 8) 8,
          body := fun s _ =>
            let core := s.cur.core
            let c := s.cur.ctx
            let a := (s.ea m 8).toNat
            if s.mayLoadLate core c a (Pair.reg d false) && s.mayLoadLate core c (a + 4) (Pair.reg d true) then
              .ok (((s.loadLater core c a .word (Pair.reg d false)).loadLater core c (a + 4) .word (Pair.reg d true)).post m)
            else
            let (s, lo, bad) := s.readScalar core s.cur.ctx a
            if bad then .trap s (ueTrap a 0)
            else
              let (s, hi, bad) := s.readScalar core s.cur.ctx (a + 4)
              if bad then .trap s (ueTrap (a + 4) 0) else .ok ((s.writePair d lo hi).post m) } s

/-! ## Stores (R384 to R386) -/

/-- The plan of a store of size bytes of a register. In a late turn it performs afterwards (R125, R129). -/
def storePlan (d : Reg) (m : MemOp) (size : Nat) : Plan where
  form := { d := .r d }
  late := fun s _ => accessTrap (s.ea m size) size
  seals := fun s _ => s.wordsFull s.cur.core s.cur.ctx [(s.ea m size).toNat - (s.ea m size).toNat % 4]
  body := fun s v =>
    let a := (s.ea m size).toNat
    .ok (((s.awaitTcm s.cur.core s.cur.ctx a).storeScalar s.cur.core s.cur.ctx a size v.wd .scalar s.cur.late).post m)

/-- STW (R384). -/
def execStw (d : Reg) (m : MemOp) (s : State) : Out := issue (storePlan d m 4) s
/-- STH (R384). -/
def execSth (d : Reg) (m : MemOp) (s : State) : Out := issue (storePlan d m 2) s
/-- STB (R384). -/
def execStb (d : Reg) (m : MemOp) (s : State) : Out := issue (storePlan d m 1) s

/-- STD: two word accesses, each performing on its own (R125, R384). In a late turn both perform afterwards, in either
order. -/
def execStd (d : Pair) (m : MemOp) (s : State) : Out :=
  issue { form := { d := .p d },
          late := fun s _ => accessTrap (s.ea m 8) 8,
          seals := fun s _ => s.wordsFull s.cur.core s.cur.ctx [(s.ea m 8).toNat, (s.ea m 8).toNat + 4],
          body := fun s v =>
            let core := s.cur.core
            let a := (s.ea m 8).toNat
            let s := (s.awaitTcm core s.cur.ctx a).storeScalar core s.cur.ctx a 4 v.wd .scalar s.cur.late
            .ok ((s.storeScalar core s.cur.ctx (a + 4) 4 (v.d.getD (0, 0)).2 .scalar s.cur.late).post m) } s

/-! ## Lines (R311, R378) -/

/-- The plan of SETF, SETE and CLRP: one logged change of a line's sideband; rel: it is a release (R130). One
of the TCM follows the stores to the TCM (R128). -/
def linePlan (m : MemOp) (rel : Bool) (f : Side → Side) : Plan where
  late := fun s _ => accessTrap (s.ea m 128) 128
  seals := fun s _ => s.logFull s.cur.core s.cur.ctx 1
  ready := fun s _ => !rel || !s.releaseWaits s.cur.core s.cur.ctx
  body := fun s _ =>
    let core := s.cur.core
    let a := (s.ea m 128).toNat
    let s := (if rel then s.flush core s.cur.ctx else s.awaitTcm core s.cur.ctx a).logSide core s.cur.ctx a
    .ok ((s.setLocalSide core a (f (s.localSide core a))).post m)

/-- SETF (R378). -/
def execSetf (m : MemOp) (s : State) : Out := issue (linePlan m true fun x => { x with fe := true }) s
/-- SETE (R378). -/
def execSete (m : MemOp) (s : State) : Out := issue (linePlan m true fun x => { x with fe := false }) s
/-- CLRP (R311). -/
def execClrp (m : MemOp) (s : State) : Out := issue (linePlan m false fun x => { x with p := false }) s

/-- The plan of TSTF and TSTP (R378). -/
def lineTest (d : Reg) (m : MemOp) (f : Side → Bool) : Plan where
  form := { dst := .r d }
  late := fun s _ => accessTrap (s.ea m 128) 128
  body := fun s _ =>
    let a := (s.ea m 128).toNat
    let s := s.awaitTcm s.cur.core s.cur.ctx a
    .ok ((s.write d (boolWord (f (s.localSide s.cur.core a)))).post m)

/-- TSTF (R378). -/
def execTstf (d : Reg) (m : MemOp) (s : State) : Out := issue (lineTest d m Side.fe) s
/-- TSTP (R378). -/
def execTstp (d : Reg) (m : MemOp) (s : State) : Out := issue (lineTest d m Side.p) s

/-! ## Pointers (R360) -/

/-- Write the address of a pointer. -/
def Ctx.setPa (x : Ctx) (p : PtrNo) (v : Word) : Ctx := { x with pa := x.pa.set p.val v p.isLt }
/-- Write the stride of a pointer. -/
def Ctx.setPs (x : Ctx) (p : PtrNo) (v : BitVec 16) : Ctx := { x with ps := x.ps.set p.val v p.isLt }

/-- PSET (R360). -/
def execPset (d : PtrNo) (a b : Reg) (s : State) : Out :=
  issue { form := { a := .r a, b := .r b },
          body := fun s v => .ok (s.updCtx s.cur.core s.cur.ctx fun x =>
            (x.setPa d v.wa).setPs d (v.wb.extractLsb' 0 16)) } s
/-- PSTR (R360). -/
def execPstr (d : PtrNo) (imm : Int) (s : State) : Out :=
  issue { body := fun s _ => .ok (s.updCtx s.cur.core s.cur.ctx fun x => x.setPs d (BitVec.ofInt 16 imm)) } s
/-- PADD (R360). -/
def execPadd (d : PtrNo) (imm : Int) (s : State) : Out :=
  issue { body := fun s _ => .ok (s.updCtx s.cur.core s.cur.ctx fun x => x.setPa d (x.pa[d] + wInt imm)) } s
/-- PGET (R360). -/
def execPget (d : Reg) (a : PtrNo) (stride : Bool) (s : State) : Out :=
  issue { form := { dst := .r d },
          body := fun s _ =>
            let x := s.ctx s.cur.core s.cur.ctx
            .ok (s.write d (if stride then (x.ps[a]).signExtend 32 else x.pa[a])) } s

end Sys2Proof.Machine
end

