-- ==== Sys2Proof/Machine/Near.lean ====
section
/-! DEFINITION. Sys2Proof/Machine/Near.lean: the near atomics NADD, NCAS and NSWP (R43, R356, R357). -/

namespace Sys2Proof.Machine

/-- ALIGN, then LADDR outside the scratchpad (R356). -/
def nearTrap (a : Word) : Option TrapInfo :=
  if a.toNat % 4 ≠ 0 then some ⟨4, a, 0⟩
  else if a.toNat < 0x100000 ∨ 0x180000 ≤ a.toNat then some ⟨3, a, 0⟩ else none

/-- The plan of a near atomic: new gives the word's new value from its old one. The seal comes before the checks. -/
def nearPlan (d a : Reg) (b : Opd) (new : Vals → Word → Word) : Plan where
  form := { a := .r a, b := b, dst := .r d }
  sealsFirst := true
  late := fun _ v => if v.a.isSome then nearTrap v.wa else none
  ready := fun s _ => !s.releaseWaits s.cur.core s.cur.ctx
  body := fun s v =>
    let core := s.cur.core
    let a := v.wa.toNat
    let s := (s.flush core s.cur.ctx).acquire core s.cur.ctx
    if s.poisoned core a then .trap s (ueTrap a 0)
    else
      let (s, old, bad) := s.readLocal core s.cur.ctx unitContext a
      if bad then .trap s (ueTrap a 0) else .ok ((s.setLocalWord core a (new v old)).write d old)

/-- NADD (R356). -/
def execNadd (d a b : Reg) (s : State) : Out := issue (nearPlan d a (.r b) fun v old => old + v.wb) s
/-- NCAS: b holds the pair (c, v); a failing one writes the old word back (R356, R357). -/
def execNcas (d a : Reg) (b : Pair) (s : State) : Out :=
  issue (nearPlan d a (.p b) fun v old => if old = v.wb then (v.b.getD (0, 0)).2 else old) s
/-- NSWP (R356). -/
def execNswp (d a b : Reg) (s : State) : Out := issue (nearPlan d a (.r b) fun v _ => v.wb) s

end Sys2Proof.Machine
end

