-- ==== Sys2Proof/Machine/Service.lean ====
section
/-! DEFINITION. Sys2Proof/Machine/Service.lean: the service thread of a core, context 0: atomics at the owner (R43, R44,
R302) and task decrements (R42). -/

namespace Sys2Proof.Machine

/-- The earlier of two entries. -/
def earlier : List Slot → Option Slot
  | [] => none
  | x :: r =>
    match earlier r with
    | none => some x
    | some y => if x.seen ≤ y.seen then some x else some y

/-- The message that the service thread executes next: KIND 2 and 3 strictly in arrival order (R21, R43). -/
def nextService (s : State) (core : Nat) : Option Slot :=
  if (s.cluster (clusterOf core)).power == .on then
    earlier ((s.core core).buf.filter fun x => x.runner.isNone && !x.line && x.msg.forService)
  else none

/-- The service thread has executed a message: its slot is free (R18), and context 0 has issued (R45). -/
def executed (s : State) (core : Nat) (x : Slot) : State :=
  s.updCore core fun k => { k with buf := dropFirst (fun y => y == x) k.buf, servedAt := some s.now }

/-- Context 0 of a core is ready: a service action is pending, no operand of it is in flight, it did not issue in the previous cycle
(R45), and no TSET of the core is writing a record (R389). -/
def serviceReady (s : State) (core : Nat) : Bool :=
  let k := s.core core
  (nextService s core).isSome && decide (k.serviceBusy ≤ s.now) && k.servedAt != some (s.now - 1)
    && [1, 2, 3, 4, 5, 6, 7].all fun c => !s.recording core c

/-- For whom the service thread executes a message: its records carry the message's PID and tag (R237). -/
def servedFor (m : Msg) : Behalf := ⟨0, unitService, m.pid, m.stag⟩

/-- An answer of the service thread to the sender of a command, with the tag of the command (R17, R44, R435). -/
def serviceAnswer (s : State) (core : Nat) (m : Msg) (hw : Word) (body : List Word) : State :=
  let k := s.core core
  let a : Msg := { (Msg.blank.withHandler hw) with
    ans := true, score := k.lcore, schip := k.rank, pid := m.pid, stag := m.stag,
    nw := BitVec.ofNat 5 body.length, body := body }
  s.answerFrom core unitService a m.score m.schip

/-- The new value of the word under an AM* command (R43). -/
def atomicNew (op : Nat) (old v c : Word) : Word :=
  match op with
  | 0x18 => old + v
  | 0x19 => v
  | 0x1A => if old = c then v else old
  | 0x1B => if old.toInt < v.toInt then v else old
  | 0x1C => if v.toInt < old.toInt then v else old
  | 0x1D => old ||| v
  | 0x1E => old &&& v
  | _ => old

/-- The effect of an AM* command: status and old word (R44, R302). -/
def atomicRun (s : State) (core : Nat) (b : Behalf) (op : Nat) (addr v c : Word) : State × Nat × Word :=
  let a := addr.toNat
  if !localOk a 4 || a % 4 != 0 then (s, 2, 0)
  else if s.poisoned core a then (s, 1, 0)
  else
    let (s, old, bad) := s.readFor core b a
    if bad then (s, 1, 0) else (s.setLocalWord core a (atomicNew op old v c), 0, old)

/-- ATOMIC_AT_OWNER: the service thread executes one AM* command and answers it (R43, R44, R302). -/
def execAtomicAtOwner (core : Nat) (s : State) : Out :=
  match if serviceReady s core then nextService s core else none with
  | none => .next s
  | some x =>
    if x.msg.kind != 2 then .next s
    else
      let m := x.msg
      let s := executed s core x
      let (s, st, old) := atomicRun s core (servedFor m) (m.pay 0).toNat (m.pay 1) (m.pay 2) (m.pay 3)
      let s := if st = 0 then s else s.coreEvent core (servedFor m) 34 (m.pay 1) (w32 st)
      .next (if m.pay 4 = 0x80000000 then s else serviceAnswer s core m (m.pay 4) [old, w32 st])

/-! ## Task records (R41, R42) -/

/-- A word of a task record; an uncorrectable one is unusable, and its value is free (R74). -/
def recordWord (s : State) (core : Nat) (b : Behalf) (a : Nat) : Word × State :=
  let (s, w, _) := s.readFor core b a
  (w, s)

/-- n words of a task record. -/
def recordRun (s : State) (core : Nat) (b : Behalf) (a : Nat) : Nat → List Word × State
  | 0 => ([], s)
  | n + 1 =>
    let (w, s) := recordWord s core b a
    let (l, s) := recordRun s core b (a + 4) n
    (w :: l, s)

/-- The message stored in a task record (R42). -/
def firedMsg (s : State) (core : Nat) (hw : Word) (nw : Nat) (pay : List Word) : Msg :=
  let k := s.core core
  { (Msg.blank.withHandler hw) with
    dcore := BitVec.ofNat 16 core, dkey := k.pkey, dchip := s.chip, score := k.lcore, schip := k.rank, pid := k.pid,
    stag := k.s.extractLsb' 0 16, seq := k.seq, nw := BitVec.ofNat 5 nw, body := pay.take nw }

/-- A record fires: its stored message, from the core to itself, enters the arrival buffer under the normal rules (R42), behind
what the core has sent itself before (R24). -/
def fire (s : State) (core : Nat) (b : Behalf) (a : Nat) : State :=
  let (hw, s) := recordWord s core b (a + 4)
  let (nwWord, s) := recordWord s core b (a + 8)
  let nw := (nwWord.extractLsb' 0 4).toNat
  if 8 < nw then s.coreEvent core b 33 (w32 a) 2
  else
    let (pay, s) := recordRun s core b (a + 16) nw
    let m := firedMsg s core hw nw pay
    let s := (s.nextSeq core).2
    { s with net := s.net ++ [m] }

/-- The decrement of a record (R42). -/
def decrement (s : State) (core : Nat) (b : Behalf) (a : Nat) (m : Word) : State :=
  let (old, s) := recordWord s core b a
  let new := old - m
  let s := s.setLocalWord core a new
  if 0 < old.toInt ∧ new = 0 then fire s core b a
  else if new.toInt < 0 then s.coreEvent core b 32 (w32 a) new
  else s

/-- TASK_DECREMENT: the service thread applies one TDEC (R42). -/
def execTaskDecrement (core : Nat) (s : State) : Out :=
  match if serviceReady s core then nextService s core else none with
  | none => .next s
  | some x =>
    if x.msg.kind != 3 then .next s
    else
      let s := executed s core x
      let a := (x.msg.pay 0).toNat
      if 0x6000 < a + 48 then .next (s.coreEvent core (servedFor x.msg) 33 (x.msg.pay 0) 0)
      else if a % 16 ≠ 0 then .next (s.coreEvent core (servedFor x.msg) 33 (x.msg.pay 0) 1)
      else .next (decrement s core (servedFor x.msg) a (x.msg.pay 1))

end Sys2Proof.Machine
end

