-- ==== Sys2Proof/Machine/Steps.lean ====
section
/-! DEFINITION. Sys2Proof/Machine/Steps.lean: the step instructions (R95 to R99, R387) and the barrier instructions
(R133 to R135, R304). -/

namespace Sys2Proof.Machine

/-- STEP: pending while the prefix lasts, else it takes effect at issue (R95, R96). -/
def execStep (s : State) : Out :=
  let core := s.cur.core
  let c := s.cur.ctx
  issue { ready := fun s _ => s.isOpen core c || s.stepReady core,
          body := fun s _ =>
            if s.isOpen core c then .ok (s.updAct core c fun a => { a with steps := a.steps + 1 })
            else .ok (s.takeStep core) } s

/-- STEPW blocks until C ≥ s - 1; with pending STEPs it raises ILL (R98). -/
def execStepw (s : State) : Out :=
  issue { early := fun s _ => illIf s (decide (0 < s.pendingSteps s.cur.core s.cur.ctx)),
          ready := fun s _ => s.stepReady s.cur.core,
          body := fun s _ => .ok s } s

/-- The pair that STEPQ writes (R99). -/
def stepQuery (s : State) (core : Nat) (sel : Fin 3) : Word × Word :=
  let k := s.core core
  let d := s.domain k.pid
  let halves (x : BitVec 64) : Word × Word := (x.extractLsb' 0 32, x.extractLsb' 32 32)
  match sel with
  | 0 => halves k.s
  | 1 => halves (BitVec.ofInt 64 d.c)
  | 2 =>
    let hold := d.phase == .held && decide (d.c + 2 = k.s.toNat)
    (w32 (k.k.toNat + (if hold then 2 ^ 16 else 0) + (if d.abt then 2 ^ 17 else 0)), d.stretched)

/-- STEPQ reads the state of its issue cycle (R99, R387). -/
def execStepq (d : Pair) (sel : Fin 3) (s : State) : Out :=
  issue { form := { dst := .p d },
          body := fun s _ =>
            let (lo, hi) := stepQuery s s.cur.core sel
            .ok (s.writePair d lo hi) } s

/-! ## Barriers -/

/-- A barrier of the issuing core's cluster. -/
def barrier (s : State) (b : Fin 16) : Barrier := (s.cluster (clusterOf s.cur.core)).bars[b]

/-- Write a barrier of the issuing core's cluster. -/
def setBarrier (s : State) (b : Fin 16) (x : Barrier) : State :=
  s.updCluster (clusterOf s.cur.core) fun c => { c with bars := c.bars.set b.val x b.isLt }

/-- An arrival: the one that completes the generation starts the next (R134). -/
def Barrier.arrive (x : Barrier) : Barrier :=
  if x.cnt + 1 = x.need then { x with gen := x.gen + 1, cnt := 0 } else { x with cnt := x.cnt + 1 }

/-- BARA (R134): a release; ILL when NEED = 0 as the arrival applies (R304). -/
def execBara (d : Reg) (b : Fin 16) (s : State) : Out :=
  issue { form := { dst := .r d },
          early := fun s _ => illIf s (!s.releaseWaits s.cur.core s.cur.ctx && (barrier s b).need == 0),
          ready := fun s _ => !s.releaseWaits s.cur.core s.cur.ctx,
          body := fun s _ =>
            let s := s.flush s.cur.core s.cur.ctx
            let x := barrier s b
            .ok ((setBarrier s b x.arrive).write d x.gen) } s

/-- Generation g has completed, within half the range (R134). -/
def genPassed (now g : Word) : Bool := decide (1 ≤ (now - g).toNat ∧ (now - g).toNat ≤ 2 ^ 31 - 1)

/-- The generation that the BARW of a context awaits: read once, when it issues (R134, R304). -/
def awaitedGen (s : State) (v : Vals) : Word := ((s.act s.cur.core s.cur.ctx).bind Act.waitGen).getD v.wd

/-- BARW waits for the generation that d holds when it issues (R134). -/
def execBarw (d : Reg) (b : Fin 16) (s : State) : Out :=
  issue { form := { d := .r d },
          body := fun s v =>
            let g := awaitedGen s v
            let keep (o : Option Word) : State := s.updAct s.cur.core s.cur.ctx fun a => { a with waitGen := o }
            if genPassed (barrier s b).gen g then .ok ((keep none).acquire s.cur.core s.cur.ctx) else .wait (keep (some g)) } s

/-- BARI sets NEED; a value above 255 raises ILL (R134). -/
def execBari (d : Reg) (b : Fin 16) (s : State) : Out :=
  issue { form := { d := .r d },
          early := fun s v => illIf s (v.d.isSome && decide (255 < v.wd.toNat)),
          body := fun s v => .ok (setBarrier s b { barrier s b with need := v.wd.extractLsb' 0 8, cnt := 0 }) } s

end Sys2Proof.Machine
end

