-- ==== Sys2Proof/Machine/Stream.lean ====
section
/-! DEFINITION. Sys2Proof/Machine/Stream.lean: the stream instructions and their elements (R55, R368, R369, R380). -/

namespace Sys2Proof.Machine

/-- The plan of a stream: it takes the stream unit, and commits after its last element (R55). -/
def streamPlan (op : StreamOp) (d a b : PtrNo) (e : Reg) (ty : StreamTy) : Plan where
  form := { e := .r e }
  ready := fun s _ => (s.core s.cur.core).stream.isNone
  body := fun s v =>
    if v.we = 0 then .ok s
    else
      .wait (s.issued.updCore s.cur.core fun k =>
        { k with stream := some ⟨s.cur.ctx, op, d, a, b, ty, 0, v.we.toNat, 0, s.cur.next, s.cur.ip, s.cur.first,
                                 s.cur.popped⟩ })

/-- SADD (R368). -/
def execSadd (d a b : PtrNo) (e : Reg) (t : StreamTy) (s : State) : Out := issue (streamPlan .sadd d a b e t) s
/-- SMUL (R380). -/
def execSmul (d a b : PtrNo) (e : Reg) (t : StreamTy) (s : State) : Out := issue (streamPlan .smul d a b e t) s
/-- SFMA (R380). -/
def execSfma (d a b : PtrNo) (e : Reg) (t : StreamTy) (s : State) : Out := issue (streamPlan .sfma d a b e t) s
/-- SCPY (R368). -/
def execScpy (d a : PtrNo) (e : Reg) (s : State) : Out := issue (streamPlan .scpy d a a e (.int false)) s

/-- The pointers that a stream reads through, in the order a, b, d. -/
def StreamRun.sources (r : StreamRun) : List PtrNo :=
  match r.op with
  | .scpy => [r.a]
  | .sfma => [r.a, r.b, r.d]
  | _ => [r.a, r.b]

/-- The distinct pointers of a stream. -/
def StreamRun.pointers (r : StreamRun) : List PtrNo := ([r.d, r.a, r.b]).eraseDups

/-- The result of an element (R55, R380). -/
def StreamRun.result (r : StreamRun) (x y z : Word) : FRes :=
  match r.op, r.ty with
  | .scpy, _ => (x, 0)
  | .sadd, .int sat => (finishInt sat (x.toInt + y.toInt), 0)
  | .smul, .int sat => (finishInt sat (x.toInt * y.toInt), 0)
  | .sfma, .int sat => (finishInt sat (x.toInt * y.toInt + z.toInt), 0)
  | .sadd, .fp rnd => fAdd rnd x y
  | .smul, .fp rnd => fMul rnd x y
  | .sfma, .fp rnd => fFma rnd x y z

namespace State

/-- Read the sources of an element in order; the first unusable word gives UE (R55). -/
def streamReads (s : State) (core c i : Nat) : List Nat → State × Except TrapInfo (List Word)
  | [] => (s, .ok [])
  | a :: r =>
    let (s, w, bad) := s.readScalar core c a
    if bad then (s, .error (ueTrap a i))
    else
      match s.streamReads core c i r with
      | (s, .ok l) => (s, .ok (w :: l))
      | (s, .error t) => (s, .error t)

/-- ALIGN of any address of an element, then LADDR of any (R55). -/
def streamTrap (as : List Word) (i : Nat) : Option TrapInfo :=
  match as.find? fun a => a.toNat % 4 != 0 with
  | some a => some ⟨4, a, w32 i⟩
  | none => (as.find? fun a => !localOk a.toNat 4).map fun a => ⟨3, a, w32 i⟩

/-- A stream stops at an element with a trap: its instruction is where the PC still stands. -/
def streamStop (s : State) (core : Nat) (r : StreamRun) (t : TrapInfo) : State :=
  let pc := (s.act core r.ctx).elim 0 Act.pc
  s.trap core r.ctx t pc pc r.popped

/-- An element of a stream commits: the stores and the pointers move, and after the last the instruction commits (R55). -/
def streamCommit (s : State) (core : Nat) (r : StreamRun) (dst : Nat) (w : Word) (fl : Flags) : State :=
  let s := (s.awaitTcm core r.ctx dst).storeScalar core r.ctx dst 4 w .stream s.cur.late
  let s := s.updCtx core r.ctx fun x => r.pointers.foldl (fun (x : Ctx) p => x.bump p) x
  let r := { r with i := r.i + 1, flags := r.flags ||| fl }
  if r.i = r.n then
    ((s.updCore core fun k => { k with stream := none }).updCtx core r.ctx fun x => x.addFlags r.flags).updAct
      core r.ctx fun a => { a with pc := r.next }
  else s.updCore core fun k => { k with stream := some r }

/-- The checker stage of an element (R49): one mismatch costs 6 cycles and runs it again, a second raises CHK. -/
def streamCheck (s : State) (core : Nat) (r : StreamRun) (dst : Nat) (w : Word) (fl : Flags) : State :=
  let n := (s.core core).mism
  if n = 0 then s.streamCommit core r dst w fl
  else
    let s := (s.updCore core fun k => { k with mism := n - min n 2 }).countChk core
    if n = 1 then
      let s : State := { s with now := s.now + 6 }
      match s.act core r.ctx with
      | some a =>
        if a.deadline ≤ s.now then (s.streamStop core r ⟨6, 0, w32 a.loaded⟩).checkRetire core
        else (s.streamCommit core r dst w fl).checkRetire core
      | none => s
    else (s.countChk core).streamStop core r ⟨7, r.ip.setWidth 32, 0⟩

/-- One element of a stream (R55): the store of the element before has completed. In a late turn that of this one performs
afterwards. -/
def streamStep (s : State) (core : Nat) (r : StreamRun) : State :=
  let s := s.settleIf core r.ctx fun x => x.kind == .stream
  let x := s.ctx core r.ctx
  let ad (p : PtrNo) : Word := x.pa[p]
  let srcs := r.sources.map ad
  match streamTrap (srcs ++ [ad r.d]) r.i with
  | some t => s.streamStop core r t
  | none =>
    let dst := (ad r.d).toNat
    if s.wordsFull core r.ctx [dst] && s.vecMemPending core r.ctx then s
    else
      let s := if s.wordsFull core r.ctx [dst] then s.sealPrefix core r.ctx else s
      if s.stepBlocked core r.ctx then s.goOn core r.ctx
      else
        match s.streamReads core r.ctx r.i (srcs.map BitVec.toNat) with
        | (s, .error t) => s.streamStop core r t
        | (s, .ok vs) =>
          let (w, fl) := r.result (vs.getD 0 0) (vs.getD 1 0) (vs.getD 2 0)
          s.streamCheck core r dst w fl

end State

/-- STREAM_ELEMENT: the next element of the stream of a core (R55). -/
def execStreamElement (core : Nat) (s : State) : Out :=
  match (s.core core).stream with
  | none => .next s
  | some r => .next (s.streamStep core r)

end Sys2Proof.Machine
end

