-- ==== Sys2Proof/Machine/System.lean ====
section
/-! DEFINITION. Sys2Proof/Machine/System.lean: the control and status registers (R62 to R65, R158, R209, R241, R245,
R247, R316 to R318), PWRQ (R362), and the privileged commands REDLV (R363), STABT and STCMT (R382), MAPW (R343, R347). -/

namespace Sys2Proof.Machine

/-! ## The map of CSRs -/

/-- Allocated CSR numbers (R63, R65, R158, R209, R241, R245, R247). -/
def csrAllocated (n : Nat) : Bool :=
  decide (n ≤ 0x004 ∨ (0x010 ≤ n ∧ n ≤ 0x015) ∨ (0x100 ≤ n ∧ n ≤ 0x10D) ∨ n = 0x110 ∨ n = 0x111
    ∨ (0x120 ≤ n ∧ n ≤ 0x126) ∨ (0x140 ≤ n ∧ n ≤ 0x15F))

/-- CSRs that hold only RO fields. -/
def csrReadOnly (n : Nat) : Bool := decide (n ≤ 0x003 ∨ (0x010 ≤ n ∧ n ≤ 0x015) ∨ n = 0x122)

/-- PRIV, then ILL (R62). -/
def csrTrap (s : State) (n : Nat) (write : Bool) : Option TrapInfo :=
  (if 0x100 ≤ n then privTrap s (w32 n) else none).or
    (illIf s (!csrAllocated n || (write && csrReadOnly n)))

/-- Inbox window of a CSR number from 0x140 to 0x15F. -/
def csrWin (n : Nat) : Fin 16 := Fin.ofNat 16 ((n - 0x140) / 2)

/-- The loads of cores i to i + 3 of a cluster (R63, R64). -/
def loadWord (s : State) (cl i : Nat) : Word :=
  let l (j : Nat) : BitVec 8 := BitVec.ofNat 8 (s.load (coreOfCluster cl (i + j)))
  l 3 ++ l 2 ++ l 1 ++ l 0

/-- Direction of the queue that PQDATA reaches. -/
def pqDir (k : Core) : Dir := dirOf k.qdir.toNat

/-- A user CSR of a context (R63). -/
def userCsr (s : State) (core c n : Nat) : Word :=
  let k := s.core core
  let cl := clusterOf core
  match n with
  | 0x000 => w32 (k.lcore.toNat + 2 ^ 16 * coreX core + 2 ^ 23 * coreY core)
  | 0x001 => k.rank.setWidth 32
  | 0x002 => k.pid.setWidth 32
  | 0x003 => w32 (c + (if k.vslot = some c then 8 else 0))
  | 0x004 => (s.ctx core c).fflags.setWidth 32
  | 0x010 => w32 (s.cycle core)
  | 0x011 => (s.ctx core c).chi
  | 0x012 => w32 (s.budgetLeft core c)
  | 0x013 => k.s.extractLsb' 0 32
  | 0x014 => loadWord s cl 0
  | 0x015 => loadWord s cl 4
  | _ => 0

/-- PQSEL (R65). QCNT has three bits: of a queue that holds more than 4 words (assumption 69) it is the length modulo 8. -/
def pqselVal (s : State) (core : Nat) : Word :=
  let k := s.core core
  let n := ((s.ctx core k.qctx.toNat).inq[(pqDir k).idx]).length
  w32 (k.qctx.toNat + 2 ^ 3 * k.qdir.toNat + 2 ^ 8 * (n % 8) + (if k.qovf then 2 ^ 11 else 0))

/-- The CSRs of the supervisor queue and of the error state (R241, R245, R247). -/
def queueCsr (s : State) (core n : Nat) : Word :=
  let k := s.core core
  let x := s.cluster (clusterOf core)
  match n with
  | 0x120 => BitVec.ofBool k.fqEn ++ k.fqNlm1 ++ k.fqBase ++ (0 : BitVec 7)
  | 0x121 => k.fqHead.setWidth 32
  | 0x122 => w32 (k.fqTail.toNat + 2 ^ 12 * k.fqCnt.toNat)
  | 0x123 => w32 (k.fqEntry.toNat + 2 ^ 16 * k.fqPrio.toNat)
  | 0x124 => w32 (k.mlim.toNat + 2 ^ 16 * k.tlim.toNat + 2 ^ 20 * k.tcnt.toNat + (if k.ret then 2 ^ 24 else 0))
  | 0x125 => x.ceThr ++ x.ceCnt
  | 0x126 => x.ueCnt.setWidth 32
  | _ => 0

/-- IBXB and IBXH of a window (R209). -/
def windowCsr (x : Window) (high : Bool) : Word :=
  if high then x.utag ++ x.tcore ++ x.prio ++ x.entry
  else BitVec.ofBool x.en ++ x.nlw ++ x.base ++ (0 : BitVec 7)

/-- The value of a CSR; PQDATA is read by its own operation. -/
def csrVal (s : State) (core c n : Nat) : Word :=
  let k := s.core core
  let x := s.cluster (clusterOf core)
  if n < 0x100 then userCsr s core c n
  else if 0x140 ≤ n then windowCsr x.wins[csrWin n] (n % 2 = 1)
  else if 0x120 ≤ n then queueCsr s core n
  else
    match n with
    | 0x100 => k.pkey.setWidth 32
    | 0x101 => k.buddef.setWidth 32
    | 0x102 => k.budmax.setWidth 32
    | 0x103 => k.redlim.setWidth 32
    | 0x104 => k.mxretry.setWidth 32
    | 0x105 => k.vweight.setWidth 32
    | 0x106 => k.stquota.setWidth 32
    | 0x107 => k.stallmax
    | 0x108 => k.svcore.setWidth 32
    | 0x109 => k.svchip.setWidth 32
    | 0x10A => k.chkcnt.setWidth 32
    | 0x10B => x.clthr.setWidth 32
    | 0x10C => pqselVal s core
    | 0x110 => x.gen.extractLsb' 0 32
    | 0x111 => x.gen.extractLsb' 32 32
    | _ => 0

/-! ## Writes -/

/-- A field of w bits from bit i of a word. -/
def bits (x : Word) (i w : Nat) : BitVec w := x.extractLsb' i w

/-- A budget field: 1 to 2^28 (R65). -/
def clampBudget (x : BitVec 29) : BitVec 29 := if x = 0 then 1 else if 0x1000_0000 < x.toNat then 0x1000_0000 else x

/-- A field whose floor is 1. -/
def atLeast1 {w : Nat} (x : BitVec w) : BitVec w := if x = 0 then 1 else x

/-- The generator never holds 0 (R158). -/
def nonzeroGen (g : BitVec 64) : BitVec 64 := if g = 0 then 0x9E37_79B9_7F4A_7C15 else g

/-- N lines of a supervisor queue. -/
def Core.fqLines (k : Core) : Nat := k.fqNlm1.toNat + 1

/-- A write of FQBASE: BASE and NLM1 only while CNT = 0 (R241). -/
def Core.writeFqBase (k : Core) (x : Word) : Core :=
  let k := { k with fqEn := x.getLsbD 31 }
  if k.fqCnt = 0 then { k with fqBase := bits x 7 12, fqNlm1 := bits x 19 12, fqHead := 0, fqTail := 0 } else k

/-- A write of FQHEAD frees lines, at most those held (R241). A value of N or more names no line: it is taken as one that would pass
TAIL (assumption 93). -/
def Core.writeFqHead (k : Core) (x : Word) : Core :=
  let n := k.fqLines
  let new := (bits x 0 12).toNat
  let d := (new + n - k.fqHead.toNat) % n
  if n ≤ new ∨ k.fqCnt.toNat < d then
    { k with fqHead := BitVec.ofNat 12 ((k.fqHead.toNat + k.fqCnt.toNat) % n), fqCnt := 0 }
  else { k with fqHead := BitVec.ofNat 12 new, fqCnt := k.fqCnt - BitVec.ofNat 13 d }

/-- A write of a core CSR (R65, R241, R245). -/
def Core.writeCsr (k : Core) (n : Nat) (x : Word) : Core :=
  match n with
  | 0x100 => { k with pkey := bits x 0 16 }
  | 0x101 => { k with buddef := clampBudget (bits x 0 29) }
  | 0x102 => { k with budmax := clampBudget (bits x 0 29) }
  | 0x103 => { k with redlim := bits x 0 2 }
  | 0x104 => { k with mxretry := bits x 0 4 }
  | 0x105 => { k with vweight := atLeast1 (bits x 0 4) }
  | 0x106 => { k with stquota := atLeast1 (bits x 0 16) }
  | 0x107 => { k with stallmax := atLeast1 x }
  | 0x108 => { k with svcore := bits x 0 16 }
  | 0x109 => { k with svchip := bits x 0 22 }
  | 0x10A => { k with chkcnt := bits x 0 16 }
  | 0x10C => { k with
      qctx := atLeast1 (bits x 0 3), qdir := bits x 3 2, qovf := k.qovf && !x.getLsbD 11 }
  | 0x120 => k.writeFqBase x
  | 0x121 => k.writeFqHead x
  | 0x123 => { k with fqEntry := bits x 0 16, fqPrio := bits x 16 6 }
  | 0x124 => { k with mlim := bits x 0 16, tlim := bits x 16 4 }
  | _ => k

/-- A write of a cluster CSR (R62, R65, R158, R209, R247). -/
def Cluster.writeCsr (c : Cluster) (n : Nat) (x : Word) : Cluster :=
  match n with
  | 0x10B => { c with clthr := bits x 0 6 }
  | 0x110 => { c with gen := nonzeroGen (c.gen.extractLsb' 32 32 ++ x) }
  | 0x111 => { c with gen := nonzeroGen (x ++ c.gen.extractLsb' 0 32) }
  | 0x125 => { c with ceCnt := bits x 0 16, ceThr := bits x 16 16 }
  | 0x126 => { c with ueCnt := bits x 0 16 }
  | _ =>
    if 0x140 ≤ n then
      let i := csrWin n
      let w := c.wins[i]
      let w := if n % 2 = 1 then { w with
                 entry := bits x 0 16, prio := bits x 16 6, tcore := bits x 22 3, utag := bits x 25 7 }
               else { w with base := bits x 7 12, nlw := bits x 19 12, en := x.getLsbD 31 }
      { c with wins := c.wins.set i.val w i.isLt }
    else c

/-- CECNT has reached its threshold (R247). -/
def thresholdCheck (s : State) (core : Nat) : State :=
  let c := s.cluster (clusterOf core)
  if c.ceThr ≠ 0 ∧ c.ceThr.toNat ≤ c.ceCnt.toNat then
    (s.updCluster (clusterOf core) fun x => { x with ceCnt := 0 }).coreEvent core (s.onBehalf core s.cur.ctx unitContext) 36
      (w32 c.ceCnt.toNat) (w32 unitContext)
  else s

/-- A write of a CSR other than PQDATA; a limit that it reaches acts at once (R245, R247, assumption 24). -/
def csrPut (s : State) (core c n : Nat) (x : Word) : State :=
  if n = 0x004 then s.updCtx core c fun y => { y with fflags := bits x 0 5 }
  else
    let s := (s.updCore core fun k => k.writeCsr n x).updCluster (clusterOf core) fun y => y.writeCsr n x
    if n = 0x10A ∨ n = 0x124 then s.checkRetire core
    else if n = 0x125 then thresholdCheck s core else s

/-! ## PQDATA (R65) -/

/-- A read pops the oldest word of the selected queue, or gives 0; it is no ordering point (R130, R318). -/
def pqPop (s : State) (core : Nat) : Word × State :=
  let k := s.core core
  s.popQueue core k.qctx.toNat (pqDir k)

/-- A write appends a word, or sets QOVF when the queue holds 4. -/
def pqPush (s : State) (core : Nat) (x : Word) : State :=
  let k := s.core core
  let d := (pqDir k).idx
  let q := (s.ctx core k.qctx.toNat).inq[d]
  if 4 ≤ q.length then s.updCore core fun k => { k with qovf := true }
  else s.updCtx core k.qctx.toNat fun y => { y with inq := y.inq.set d.val (q ++ [x]) d.isLt }

/-! ## CSRR and CSRW (R316 to R318) -/

/-- FFLAGS waits until every earlier flag-setting instruction of the context has set its flags (R159, R318). -/
def flagsReady (s : State) : Bool :=
  ((s.core s.cur.core).iter.elim true fun op => op.ctx != s.cur.ctx) &&
    (s.core s.cur.core).vq.all fun e => e.ctx != s.cur.ctx

/-- The plan of CSRR of a number. -/
def csrReadPlan (d : Reg) (n : Nat) : Plan where
  form := { dst := .r d }
  early := fun s _ => csrTrap s n false
  seals := fun _ _ => n == 0x10D
  ready := fun s _ => n != 0x004 || flagsReady s
  body := fun s _ =>
    let core := s.cur.core
    let c := s.cur.ctx
    if n = 0x10D then
      let (w, s) := pqPop s core
      .ok (s.write d w)
    else
      let x := csrVal s core c n
      let s := if n = 0x010 then s.updCtx core c fun y => { y with chi := w32 (s.cycle core / 2 ^ 32) } else s
      .ok (s.write d x)

/-- The plan of CSRW of a number. -/
def csrWritePlan (d : Reg) (n : Nat) : Plan where
  form := { d := .r d }
  early := fun s _ => csrTrap s n true
  seals := fun _ _ => n == 0x10D
  ready := fun s _ => n != 0x004 || flagsReady s
  body := fun s v =>
    .ok (if n = 0x10D then pqPush s s.cur.core v.wd else csrPut s s.cur.core s.cur.ctx n v.wd)

/-- CSRR (R317). -/
def execCsrr (d : Reg) (csr : Int) (s : State) : Out := issue (csrReadPlan d csr.toNat) s
/-- CSRW (R317). -/
def execCsrw (d : Reg) (csr : Int) (s : State) : Out := issue (csrWritePlan d csr.toNat) s
/-- CSRR of PQDATA (R65). -/
def execPqdataRead (d : Reg) (s : State) : Out := issue (csrReadPlan d 0x10D) s
/-- CSRW of PQDATA (R65). -/
def execPqdataWrite (d : Reg) (s : State) : Out := issue (csrWritePlan d 0x10D) s
/-- CSRR of CYCLE latches the high word (R63). -/
def execCycleRead (d : Reg) (s : State) : Out := issue (csrReadPlan d 0x010) s
/-- CSRW of FQBASE (R241). -/
def execFqbaseWrite (d : Reg) (s : State) : Out := issue (csrWritePlan d 0x120) s
/-- CSRW of FQHEAD (R241). -/
def execFqheadWrite (d : Reg) (s : State) : Out := issue (csrWritePlan d 0x121) s

/-! ## PWRQ (R362) -/

/-- A signed word clamped to ±(2^31 - 1). -/
def clampWord (z : Int) : Word := wInt (max (-(2 ^ 31 - 1)) (min (2 ^ 31 - 1) z))

/-- What PWRQ writes. -/
def powerQuery (s : State) (core : Nat) (sel : Fin 5) : Word :=
  let die := dieOfCore core
  match sel with
  | 0 => w32 (s.rate die)
  | 1 => clampWord (s.credit die)
  | 2 => w32 (s.host.watt.toNat + (if 105 ≤ (s.die die).temp.toNat then 2 ^ 13 else 0))
  | 3 => w32 (s.wlvTime (clusterOf core))
  | 4 => w32 (min (2 ^ 32 - 1) (s.waitingCharge (clusterOf core)))

/-- PWRQ (R362). -/
def execPwrq (d : Reg) (sel : Fin 5) (s : State) : Out :=
  issue { form := { dst := .r d }, body := fun s _ => .ok (s.write d (powerQuery s s.cur.core sel)) } s

/-! ## Privileged commands -/

/-- REDLV: PRIV comes before the ILL of its handler word (R234, R275, R285; assumption 30), and its endpoint is resolved at issue
(R90). -/
def execRedlv (d : Pair) (a e : Reg) (s : State) : Out :=
  issue (privileged (sendLooked (fun s v => if d = .zr then s else s.noteDead false v.d) { a := .r a, e := .r e, d := .p d }
    (fun s v => illIf s (badHandler v.e || (d != .zr && badEndpoint v.d)))
    (fun s v => (if d = .zr then none else s.endpointDead false v.d).or
      (if v.a.isSome then accessTrap v.wa 128 else none))
    (fun s v => (if d = .zr then s else s.noteEndpoint (v.d.getD (0, 0))).buffer (.redlv
      ⟨s.issuer, if d = .zr then none else v.d.map s.endpoint, (s.endpointName (v.d.getD (0, 0))).1, v.wa.toNat,
        replyWord e v⟩)))) s

/-- The plan of STABT and STCMT (R382). -/
def decisionPlan (abort : Bool) (a b e : Reg) : Plan :=
  privileged (sendPlan { a := .r a, b := .r b, e := .r e }
    (fun s v => illIf s (badHandler v.e || (v.a.isSome && v.wa.extractLsb' 16 16 != 0)))
    (fun _ _ => none)
    (fun s v => s.buffer (.decision ⟨s.issuer, s.chip, abort, v.wa.extractLsb' 0 16, v.wb, replyWord e v⟩)))

/-- STABT (R382). -/
def execStabt (a b e : Reg) (s : State) : Out := issue (decisionPlan true a b e) s
/-- STCMT (R382). -/
def execStcmt (a b e : Reg) (s : State) : Out := issue (decisionPlan false a b e) s

/-- A control word of MAPW that raises ILL (R343). -/
def mapwBad (w : Word) : Bool :=
  let op := fld w 0 3
  decide (6 ≤ op) || fld w 11 5 != 0 || (if op ≤ 1 then fld w 3 8 == 0 else fld w 3 8 != 0)

/-- MAPW (R343, R347). -/
def execMapw (d a e : Reg) (s : State) : Out :=
  issue (privileged (sendPlan { a := .r a, e := .r e, d := .r d }
    (fun s v => illIf s (badHandler v.e || (v.d.isSome && mapwBad v.wd)))
    (fun _ v => if v.a.isSome then accessTrap v.wa 4 else none)
    (fun s v => s.buffer (.mapw ⟨s.issuer, v.wd, v.wa.toNat, none, replyWord e v⟩)))) s

end Sys2Proof.Machine
end

