-- ==== Sys2Proof/Machine/Vector.lean ====
section
/-! DEFINITION. Sys2Proof/Machine/Vector.lean: the issue of the vector instructions (R192 to R197, R394 to R410), and
the two steps of the vector unit: the grant of a pass (R195, R201) and the writing of a result (R194, R200). -/

namespace Sys2Proof.Machine

/-- The issuing context holds the vector slot (R192). -/
def holdsSlot (s : State) : Bool := (s.core s.cur.core).vslot == some s.cur.ctx

/-- The core's vector queue has a place (R194). -/
def queueRoom (s : State) (_ : Vals) : Bool := decide ((s.core s.cur.core).vq.length < 16)

/-- Enter the core's vector queue (R194). -/
def enterQueue (s : State) (i : Instr) (x : Word) (held : Option (List LineData)) : State :=
  s.updCore s.cur.core fun k =>
    { k with vq := k.vq ++ [{
      ins := i, ctx := s.cur.ctx, orig := s.cur.pc, vl := k.vl, x := x, held := held,
      after := (s.ctx s.cur.core s.cur.ctx).waiting.length, granted := 0, owed := [], out := [], flags := 0, lost := none,
      failed := false, popped := s.cur.popped, got := [] }] }

/-- The plan of a vector instruction: a is the register operand that it reads at issue, bad an operand value that
raises ILL. -/
def vecPlan (i : Instr) (a : Opd) (bad : Word → Bool) : Plan where
  form := { a := a, also := vecRegs i }
  early := fun s v => illIf s (!holdsSlot s || (v.a.isSome && bad v.wa))
  ready := queueRoom
  checked := false
  body := fun s v => .ok (enterQueue s i v.wa none)

/-- The plan of a vector instruction without register operands. -/
def vecOnly (i : Instr) : Plan := vecPlan i .none fun _ => false

/-- VADD (R398). -/
def execVadd (d a b : VNo) (m : VMod) (s : State) : Out := issue (vecOnly (.vadd d a b m)) s
/-- VSUB (R398). -/
def execVsub (d a b : VNo) (m : VMod) (s : State) : Out := issue (vecOnly (.vsub d a b m)) s
/-- VMUL (R398). -/
def execVmul (d a b : VNo) (m : VMod) (s : State) : Out := issue (vecOnly (.vmul d a b m)) s
/-- VFMA (R398). -/
def execVfma (d a b : VNo) (m : VMod) (s : State) : Out := issue (vecOnly (.vfma d a b m)) s
/-- VMIN (R398). -/
def execVmin (d a b : VNo) (m : VMod) (s : State) : Out := issue (vecOnly (.vmin d a b m)) s
/-- VMAX (R398). -/
def execVmax (d a b : VNo) (m : VMod) (s : State) : Out := issue (vecOnly (.vmax d a b m)) s
/-- VAND (R398). -/
def execVand (d a b : VNo) (s : State) : Out := issue (vecOnly (.vand d a b)) s
/-- VOR (R398). -/
def execVor (d a b : VNo) (s : State) : Out := issue (vecOnly (.vor d a b)) s
/-- VXOR (R398). -/
def execVxor (d a b : VNo) (s : State) : Out := issue (vecOnly (.vxor d a b)) s
/-- VSHL (R398). -/
def execVshl (d a b : VNo) (s : State) : Out := issue (vecOnly (.vshl d a b)) s
/-- VSHR (R398). -/
def execVshr (d a b : VNo) (s : State) : Out := issue (vecOnly (.vshr d a b)) s
/-- VCMP (R400). -/
def execVcmp (d a b : VNo) (c : Cond) (int : Bool) (s : State) : Out := issue (vecOnly (.vcmp d a b c int)) s
/-- VSEL (R398). -/
def execVsel (d a b : VNo) (s : State) : Out := issue (vecOnly (.vsel d a b)) s
/-- VCVT (R402). -/
def execVcvt (d a : VNo) (r : Rnd) (sat : Bool) (dst src : Fmt) (s : State) : Out :=
  issue (vecOnly (.vcvt d a r sat dst src)) s
/-- VEXP2 (R403). -/
def execVexp2 (d a : VNo) (r : Rnd) (pn : Bool) (s : State) : Out := issue (vecOnly (.vexp2 d a r pn)) s
/-- VLOG2 (R403). -/
def execVlog2 (d a : VNo) (r : Rnd) (pn : Bool) (s : State) : Out := issue (vecOnly (.vlog2 d a r pn)) s
/-- VRCP (R403). -/
def execVrcp (d a : VNo) (r : Rnd) (pn : Bool) (s : State) : Out := issue (vecOnly (.vrcp d a r pn)) s
/-- VRSUM (R404). -/
def execVrsum (d : Reg) (a : VNo) (m : VMod) (x : Bool) (s : State) : Out := issue (vecOnly (.vrsum d a m x)) s
/-- VRMAX (R404). -/
def execVrmax (d : Reg) (a : VNo) (m : VMod) (x : Bool) (s : State) : Out := issue (vecOnly (.vrmax d a m x)) s
/-- VSCAN (R405). -/
def execVscan (d a : VNo) (m : VMod) (s : State) : Out := issue (vecOnly (.vscan d a m)) s
/-- VBCST (R406). -/
def execVbcst (d : VNo) (a : Reg) (s : State) : Out := issue (vecPlan (.vbcst d a) (.r a) fun _ => false) s
/-- VPERM (R401). -/
def execVperm (d a b : VNo) (s : State) : Out := issue (vecOnly (.vperm d a b)) s
/-- VMVG: a lane number above 63 raises ILL (R406). -/
def execVmvg (d : Reg) (a : VNo) (b : Reg) (s : State) : Out :=
  issue (vecPlan (.vmvg d a b) (.r b) fun n => decide (63 < n.toNat)) s

/-- VSETL: a length above 64 raises ILL; every later instruction of the context uses the new length (R394, R396). -/
def execVsetl (a : Reg) (s : State) : Out :=
  let pl := vecPlan (.vsetl a) (.r a) fun n => decide (64 < n.toNat)
  let body (s : State) (v : Vals) : Res :=
    .ok ((enterQueue s (.vsetl a) v.wa none).updCore s.cur.core fun k => { k with vl := v.wa.toNat })
  issue { pl with body := body } s

/-- The slot goes to the issuing context, or the context takes its place among the waiting (R193, R395). -/
def takeSlot (s : State) : Res :=
  let core := s.cur.core
  let c := s.cur.ctx
  let k := s.core core
  if k.vslot = some c then .ok s
  else if k.vslot = none ∧ (k.vwait = [] ∨ k.vwait.head? = some c) then
    .ok (s.updCore core fun k => { k with
      vslot := some c, vwait := k.vwait.filter (· ≠ c), lanes := [], vpoison := Vector.replicate 8 0, vl := 64 })
  else .wait (s.updCore core fun k => { k with vwait := if k.vwait.contains c then k.vwait else k.vwait ++ [c] })

/-- VACQ takes the slot, or waits for it in issue order (R193, R395). -/
def execVacq (s : State) : Out := issue { checked := false, body := fun s _ => takeSlot s } s

/-! ## Memory forms (R407 to R410) -/

/-- ALIGN and LADDR of a memory form; packed: every byte of the array must lie in the region of ea (R408). -/
def vecAccess (s : State) (m : MemOp) (t : Fmt) (packed : Bool) : Option TrapInfo :=
  let ea := s.ea m 4
  let vl := (s.core s.cur.core).vl
  (accessTrap ea 4).or
    (if packed && vl != 0 && !inRegion ea.toNat (ea.toNat + (vl * t.width + 7) / 8 - 1) then some ⟨3, ea, 0⟩ else none)

/-- The word addresses that a VLD or VGTH reads, without the lanes that R409 leaves unread. -/
def vecReads (s : State) (i : Instr) (ea : Nat) : List Nat :=
  let k := s.core s.cur.core
  match i with
  | .vld _ _ _ t => (List.range k.vl).map fun j => (elemWord t ea j).1
  | .vgth _ _ _ e t => (List.range k.vl).filterMap fun j =>
      let n := (k.lane e j).toNat
      if k.lanePoison e j || !inRegion ea (elemByte t ea n) then none else some (elemWord t ea n).1
  | _ => []

/-- Read the words of one full line that a synchronising load needs (R410), after the vector stores of the context to them (R127). -/
def vecReadLine (s : State) (core line : Nat) (words : List Nat) : State × LineData :=
  let (s, ws) := (List.range 32).foldl (fun (x : State × List Word) j =>
    let a := 128 * line + 4 * j
    if words.contains a then
      let (s, w, _) := (x.1.awaitVector core s.cur.ctx a).readLocal core s.cur.ctx unitVector a
      (s, x.2 ++ [w])
    else (x.1, x.2 ++ [0])) (s, [])
  (s, ⟨line, ws, s.poisoned core (128 * line)⟩)

/-- A synchronising load reads each line that it still needs and finds full; it is done when it holds all (R410). -/
def syncRead (s : State) (words : List Nat) : State × Bool :=
  let core := s.cur.core
  let c := s.cur.ctx
  let lines := (words.map (· / 128)).eraseDups
  let have_ := (s.act core c).elim [] Act.sync
  let (s, got) := lines.foldl (fun (x : State × List LineData) l =>
    if (x.2.any fun y => y.line == l) || !x.1.isFull core (128 * l) then x
    else
      let (s, y) := vecReadLine x.1 core l words
      (s, x.2 ++ [y])) (s, have_)
  (s.updAct core c fun a => { a with sync := got }, lines.all fun l => got.any fun y => y.line == l)

/-- A gather reads its index vector at issue only when it synchronises; its earlier writers must then have written. -/
def indexReady (s : State) (e : VNo) : Bool := (s.core s.cur.core).vq.all fun x => vecDst x.ins != some e

/-- A result of the context in the iterative unit is to be pushed to a port: a release that a vector access must follow (R139). -/
def pushAhead (k : Core) (c : Nat) : Bool := k.iter.elim false fun op => op.ctx == c && (Opd.r op.dst).port.isSome

/-- The plan of a vector load. One that synchronises reads at issue, so it waits for the earlier vector memory instructions
of its context (R127), and for its releases and pushes before it (R139). -/
def vecLoad (i : Instr) (m : MemOp) (sync : Bool) (t : Fmt) (packed : Bool) (idx : State → Bool) : Plan where
  early := fun s _ => illIf s (!holdsSlot s)
  late := fun s _ => vecAccess s m t packed
  ready := fun s v => queueRoom s v && (!sync || (idx s && !s.vecMemPending s.cur.core s.cur.ctx
    && (s.ctx s.cur.core s.cur.ctx).waiting.isEmpty && !pushAhead (s.core s.cur.core) s.cur.ctx))
  checked := false
  body := fun s _ =>
    let ea := s.ea m 4
    if sync then
      let (s, done) := syncRead (s.acquire s.cur.core s.cur.ctx) (vecReads s i ea.toNat)
      if done then
        let held := (s.act s.cur.core s.cur.ctx).elim [] Act.sync
        .ok (((enterQueue s i ea (some held)).updAct s.cur.core s.cur.ctx fun a => { a with sync := [] }).post m)
      else .wait s
    else .ok ((enterQueue s i ea none).post m)

/-- VLD (R408, R410). -/
def execVld (d : VNo) (m : MemOp) (y : Bool) (t : Fmt) (s : State) : Out :=
  issue (vecLoad (.vld d m y t) m y t true fun _ => true) s
/-- VGTH (R409, R410). -/
def execVgth (d : VNo) (m : MemOp) (y : Bool) (e : VNo) (t : Fmt) (s : State) : Out :=
  issue (vecLoad (.vgth d m y e t) m y t false fun s => indexReady s e) s

/-- The plan of a vector store; need: it finds no room in the undo log (R410). -/
def vecStore (i : Instr) (m : MemOp) (t : Fmt) (packed : Bool) (need : State → Bool) : Plan where
  early := fun s _ => illIf s (!holdsSlot s)
  late := fun s _ => vecAccess s m t packed
  seals := fun s _ => need s
  ready := queueRoom
  checked := false
  body := fun s _ => .ok ((enterQueue s i (s.ea m 4) none).post m)

/-- VST logs the words that it will write, counted at issue (R408, R410). -/
def execVst (d : VNo) (m : MemOp) (t : Fmt) (s : State) : Out :=
  issue (vecStore (.vst d m t) m t true fun s =>
    s.wordsFull s.cur.core s.cur.ctx (vstWords t (s.ea m 4).toNat (s.core s.cur.core).vl)) s
/-- VSCT counts VL words at issue (R409, R410). -/
def execVsct (d : VNo) (m : MemOp) (e : VNo) (t : Fmt) (s : State) : Out :=
  issue (vecStore (.vsct d m e t) m t false fun s =>
    s.logFull s.cur.core s.cur.ctx (s.core s.cur.core).vl) s

/-! ## The vector unit -/

/-- Entries of a queue up to the first whose passes are not all granted, and that entry. -/
def nextEntry : List VecEntry → List VecEntry × Option VecEntry
  | [] => ([], none)
  | e :: r => if e.allGranted then let (p, n) := nextEntry r; (e :: p, n) else ([], some e)

/-- The next pass of a core that may be granted now (R195): it neither reads nor writes a vector register that an
earlier instruction of the queue has not yet written, and a memory instruction follows the releases and the pushes of its context
that precede it (R139). -/
def eligible (k : Core) : Option VecEntry :=
  match nextEntry k.vq with
  | (_, none) => none
  | (p, some e) =>
    let mine := vecSrc e.ins ++ (vecDst e.ins).toList
    if (p.any fun x => (vecDst x.ins).elim false mine.contains) || (isVecMem e.ins && (e.after != 0 || pushAhead k e.ctx)) then none
    else some e

/-- Cores of a cluster whose queue holds a pass that may be granted now. -/
def eligibleCores (s : State) (cl : Nat) : List Nat := (coresOf cl).filter fun c => (eligible (s.core c)).isSome

/-- The core with the largest count, the lowest number on a tie (R195). -/
def largest (s : State) : List Nat → Option Nat
  | [] => none
  | c :: r =>
    match largest s r with
    | none => some c
    | some d => if (s.core c).cw ≥ (s.core d).cw then some c else some d

/-- The granted pass of a core runs. One mismatch reruns it; a second one fails the instruction (R201). A memory form computes
nothing that the check covers (R410). A pass that fails takes no draws of R157 (assumption 84). -/
def runPass (s : State) (core : Nat) (e : VecEntry) : State :=
  let n := if isVecMem e.ins then 0 else min (s.core core).vmism 2
  let s := s.updCore core fun k => { k with vmism := k.vmism - n }
  let s := if n = 0 then s else if n = 1 then s.countChk core else (s.countChk core).countChk core
  let (s, e') := if n = 2 then (s, { e with granted := e.granted + 1, failed := true }) else s.vecPass core s.cur.late e
  let s := s.updCore core fun k => { k with vq := updFirst (fun x => !x.allGranted) (fun _ => e') k.vq }
  if n = 0 then s else s.checkRetire core

/-- PASS_GRANT: the arbiter of a cluster grants one pass (R195). -/
def execPassGrant (cl : Nat) (s : State) : Out :=
  if (s.cluster cl).power != .on then .next s
  else
    let cs := eligibleCores s cl
    let sum : Nat := (cs.map fun c => (s.core c).vweight.toNat).sum
    let s := cs.foldl (fun (s : State) c => s.updCore c fun k => { k with cw := k.cw + k.vweight.toNat }) s
    match largest s cs with
    | none => .next s
    | some c =>
      let s := s.updCore c fun k => { k with cw := k.cw - sum }
      match eligible (s.core c) with
      | none => .next s
      | some e => .next (runPass s c e)

/-- The first instruction of a context that has not issued (R394): behind a stream that runs, the one after it. -/
def pcOf (s : State) (core c : Nat) : Nat :=
  match (s.core core).stream with
  | some r => if r.ctx = c then r.next else (s.act core c).elim 0 Act.pc
  | none => (s.act core c).elim 0 Act.pc

/-- VECTOR_RESULT_WRITE: the oldest instruction of a core's queue writes its result and flags, or raises UE or CHK
(R194, R200, R201, R394). A load has read its words by then. -/
def execVectorResultWrite (core : Nat) (s : State) : Out :=
  match (s.core core).vq with
  | [] => .next s
  | e :: r =>
    if !e.allGranted then .next s
    else
      let (s, e) := (s.updCore core fun k => { k with vq := r }).vecOwed core e
      match s.vecTrap core e with
      | none => .next (s.vecWrite core e)
      | some t => .next (s.trap core e.ctx t (pcOf s core e.ctx) e.orig e.popped)

/-- The vector unit reads a word for entry k of a core's queue (R125), one that a granted pass needs. -/
def vecReadTurn (core k addr : Nat) (s : State) : State :=
  match (s.core core).vq[k]? with
  | none => s
  | some e =>
    let (s, e) := s.readOwed core [addr] e
    s.updCore core fun x => { x with vq := x.vq.set k e }

end Sys2Proof.Machine
end

