-- ==== Sys2Proof/Machine/Dispatch.lean ====
section
/-! DEFINITION. Sys2Proof/Machine/Dispatch.lean: the meaning of every instruction, one arm each. -/

namespace Sys2Proof.Machine

def exec (i : Instr) (s : State) : Host.Outcome State Fault Refusal :=
  match i with
  | .nop => Sys2Proof.Machine.execNop s
  | .br off => Sys2Proof.Machine.execBr off s
  | .call off => Sys2Proof.Machine.execCall off s
  | .jr a => Sys2Proof.Machine.execJr a s
  | .jalr a => Sys2Proof.Machine.execJalr a s
  | .bz d off => Sys2Proof.Machine.execBz d off s
  | .bnz d off => Sys2Proof.Machine.execBnz d off s
  | .endAct => Sys2Proof.Machine.execEndAct s
  | .seal => Sys2Proof.Machine.execSeal s
  | .send d a n => Sys2Proof.Machine.execSend d a n s
  | .sendm d a n => Sys2Proof.Machine.execSendm d a n s
  | .reply a n => Sys2Proof.Machine.execReply a n s
  | .migr d a => Sys2Proof.Machine.execMigr d a s
  | .geth d k => Sys2Proof.Machine.execGeth d k s
  | .add d a b => Sys2Proof.Machine.execAdd d a b s
  | .sub d a b => Sys2Proof.Machine.execSub d a b s
  | .and d a b => Sys2Proof.Machine.execAnd d a b s
  | .or d a b => Sys2Proof.Machine.execOr d a b s
  | .xor d a b => Sys2Proof.Machine.execXor d a b s
  | .shl d a b => Sys2Proof.Machine.execShl d a b s
  | .shr d a b => Sys2Proof.Machine.execShr d a b s
  | .sra d a b => Sys2Proof.Machine.execSra d a b s
  | .mul d a b => Sys2Proof.Machine.execMul d a b s
  | .mulh d a b => Sys2Proof.Machine.execMulh d a b s
  | .mulhu d a b => Sys2Proof.Machine.execMulhu d a b s
  | .min d a b => Sys2Proof.Machine.execMin d a b s
  | .max d a b => Sys2Proof.Machine.execMax d a b s
  | .minu d a b => Sys2Proof.Machine.execMinu d a b s
  | .maxu d a b => Sys2Proof.Machine.execMaxu d a b s
  | .slt d a b => Sys2Proof.Machine.execSlt d a b s
  | .sltu d a b => Sys2Proof.Machine.execSltu d a b s
  | .seq d a b => Sys2Proof.Machine.execSeq d a b s
  | .divu d a b => Sys2Proof.Machine.execDivu d a b s
  | .remu d a b => Sys2Proof.Machine.execRemu d a b s
  | .clz d a => Sys2Proof.Machine.execClz d a s
  | .popc d a => Sys2Proof.Machine.execPopc d a s
  | .sel d a b => Sys2Proof.Machine.execSel d a b s
  | .bfx d a imm => Sys2Proof.Machine.execBfx d a imm s
  | .bfi d a imm => Sys2Proof.Machine.execBfi d a imm s
  | .addi d a imm => Sys2Proof.Machine.execAddi d a imm s
  | .andi d a imm => Sys2Proof.Machine.execAndi d a imm s
  | .ori d a imm => Sys2Proof.Machine.execOri d a imm s
  | .xori d a imm => Sys2Proof.Machine.execXori d a imm s
  | .shli d a imm => Sys2Proof.Machine.execShli d a imm s
  | .shri d a imm => Sys2Proof.Machine.execShri d a imm s
  | .srai d a imm => Sys2Proof.Machine.execSrai d a imm s
  | .slti d a imm => Sys2Proof.Machine.execSlti d a imm s
  | .ldi d imm => Sys2Proof.Machine.execLdi d imm s
  | .ldhi d imm => Sys2Proof.Machine.execLdhi d imm s
  | .ldw d m => Sys2Proof.Machine.execLdw d m s
  | .ldh d m => Sys2Proof.Machine.execLdh d m s
  | .ldhu d m => Sys2Proof.Machine.execLdhu d m s
  | .ldb d m => Sys2Proof.Machine.execLdb d m s
  | .ldbu d m => Sys2Proof.Machine.execLdbu d m s
  | .ldd d m => Sys2Proof.Machine.execLdd d m s
  | .lds d m => Sys2Proof.Machine.execLds d m s
  | .stw d m => Sys2Proof.Machine.execStw d m s
  | .sth d m => Sys2Proof.Machine.execSth d m s
  | .stb d m => Sys2Proof.Machine.execStb d m s
  | .std d m => Sys2Proof.Machine.execStd d m s
  | .setf m => Sys2Proof.Machine.execSetf m s
  | .sete m => Sys2Proof.Machine.execSete m s
  | .tstf d m => Sys2Proof.Machine.execTstf d m s
  | .tstp d m => Sys2Proof.Machine.execTstp d m s
  | .clrp m => Sys2Proof.Machine.execClrp m s
  | .pset d a b => Sys2Proof.Machine.execPset d a b s
  | .pstr d imm => Sys2Proof.Machine.execPstr d imm s
  | .padd d imm => Sys2Proof.Machine.execPadd d imm s
  | .pget d a stride => Sys2Proof.Machine.execPget d a stride s
  | .sadd d a b e t => Sys2Proof.Machine.execSadd d a b e t s
  | .smul d a b e t => Sys2Proof.Machine.execSmul d a b e t s
  | .sfma d a b e t => Sys2Proof.Machine.execSfma d a b e t s
  | .scpy d a e => Sys2Proof.Machine.execScpy d a e s
  | .fadd d a b r => Sys2Proof.Machine.execFadd d a b r s
  | .fsub d a b r => Sys2Proof.Machine.execFsub d a b r s
  | .fmul d a b r => Sys2Proof.Machine.execFmul d a b r s
  | .ffma d a b r => Sys2Proof.Machine.execFfma d a b r s
  | .fdiv d a b r => Sys2Proof.Machine.execFdiv d a b r s
  | .fsqrt d a r => Sys2Proof.Machine.execFsqrt d a r s
  | .fmin d a b => Sys2Proof.Machine.execFmin d a b s
  | .fmax d a b => Sys2Proof.Machine.execFmax d a b s
  | .feq d a b => Sys2Proof.Machine.execFeq d a b s
  | .flt d a b => Sys2Proof.Machine.execFlt d a b s
  | .fle d a b => Sys2Proof.Machine.execFle d a b s
  | .fclass d a => Sys2Proof.Machine.execFclass d a s
  | .ftoi d a r sat => Sys2Proof.Machine.execFtoi d a r sat s
  | .itof d a r sat => Sys2Proof.Machine.execItof d a r sat s
  | .fcvt d a r sat dst src => Sys2Proof.Machine.execFcvt d a r sat dst src s
  | .fexp2 d a r => Sys2Proof.Machine.execFexp2 d a r s
  | .flog2 d a r => Sys2Proof.Machine.execFlog2 d a r s
  | .frcp d a r => Sys2Proof.Machine.execFrcp d a r s
  | .frsq d a r => Sys2Proof.Machine.execFrsq d a r s
  | .twosum d a b => Sys2Proof.Machine.execTwosum d a b s
  | .twoprod d a b => Sys2Proof.Machine.execTwoprod d a b s
  | .vadd d a b m => Sys2Proof.Machine.execVadd d a b m s
  | .vsub d a b m => Sys2Proof.Machine.execVsub d a b m s
  | .vmul d a b m => Sys2Proof.Machine.execVmul d a b m s
  | .vfma d a b m => Sys2Proof.Machine.execVfma d a b m s
  | .vmin d a b m => Sys2Proof.Machine.execVmin d a b m s
  | .vmax d a b m => Sys2Proof.Machine.execVmax d a b m s
  | .vand d a b => Sys2Proof.Machine.execVand d a b s
  | .vor d a b => Sys2Proof.Machine.execVor d a b s
  | .vxor d a b => Sys2Proof.Machine.execVxor d a b s
  | .vshl d a b => Sys2Proof.Machine.execVshl d a b s
  | .vshr d a b => Sys2Proof.Machine.execVshr d a b s
  | .vcmp d a b c int => Sys2Proof.Machine.execVcmp d a b c int s
  | .vsel d a b => Sys2Proof.Machine.execVsel d a b s
  | .vcvt d a r sat dst src => Sys2Proof.Machine.execVcvt d a r sat dst src s
  | .vexp2 d a r pn => Sys2Proof.Machine.execVexp2 d a r pn s
  | .vlog2 d a r pn => Sys2Proof.Machine.execVlog2 d a r pn s
  | .vrcp d a r pn => Sys2Proof.Machine.execVrcp d a r pn s
  | .vrsum d a m x => Sys2Proof.Machine.execVrsum d a m x s
  | .vrmax d a m x => Sys2Proof.Machine.execVrmax d a m x s
  | .vscan d a m => Sys2Proof.Machine.execVscan d a m s
  | .vbcst d a => Sys2Proof.Machine.execVbcst d a s
  | .vperm d a b => Sys2Proof.Machine.execVperm d a b s
  | .vld d m q t => Sys2Proof.Machine.execVld d m q t s
  | .vst d m t => Sys2Proof.Machine.execVst d m t s
  | .vgth d m q e t => Sys2Proof.Machine.execVgth d m q e t s
  | .vsct d m e t => Sys2Proof.Machine.execVsct d m e t s
  | .vmvg d a b => Sys2Proof.Machine.execVmvg d a b s
  | .vsetl a => Sys2Proof.Machine.execVsetl a s
  | .vacq => Sys2Proof.Machine.execVacq s
  | .mxcfg d e => Sys2Proof.Machine.execMxcfg d e s
  | .mxld d a e => Sys2Proof.Machine.execMxld d a e s
  | .mxmul d a b e => Sys2Proof.Machine.execMxmul d a b e s
  | .mxdr d a e r sat => Sys2Proof.Machine.execMxdr d a e r sat s
  | .mxdra d a e => Sys2Proof.Machine.execMxdra d a e s
  | .mxqry d a => Sys2Proof.Machine.execMxqry d a s
  | .cpget d a b e => Sys2Proof.Machine.execCpget d a b e s
  | .cpput d a b e => Sys2Proof.Machine.execCpput d a b e s
  | .cpfst d a b e => Sys2Proof.Machine.execCpfst d a b e s
  | .cpfill d a b e => Sys2Proof.Machine.execCpfill d a b e s
  | .gld d a => Sys2Proof.Machine.execGld d a s
  | .gldd d a => Sys2Proof.Machine.execGldd d a s
  | .gst d a e => Sys2Proof.Machine.execGst d a e s
  | .gstd d a e => Sys2Proof.Machine.execGstd d a e s
  | .gstmc d a b e => Sys2Proof.Machine.execGstmc d a b e s
  | .amadd d a b e => Sys2Proof.Machine.execAmadd d a b e s
  | .amswp d a b e => Sys2Proof.Machine.execAmswp d a b e s
  | .amcas d a b e => Sys2Proof.Machine.execAmcas d a b e s
  | .ammax d a b e => Sys2Proof.Machine.execAmmax d a b e s
  | .ammin d a b e => Sys2Proof.Machine.execAmmin d a b e s
  | .amor d a b e => Sys2Proof.Machine.execAmor d a b e s
  | .amand d a b e => Sys2Proof.Machine.execAmand d a b e s
  | .nadd d a b => Sys2Proof.Machine.execNadd d a b s
  | .ncas d a b => Sys2Proof.Machine.execNcas d a b s
  | .nswp d a b => Sys2Proof.Machine.execNswp d a b s
  | .step => Sys2Proof.Machine.execStep s
  | .stepw => Sys2Proof.Machine.execStepw s
  | .stepq d sel => Sys2Proof.Machine.execStepq d sel s
  | .bara d b => Sys2Proof.Machine.execBara d b s
  | .barw d b => Sys2Proof.Machine.execBarw d b s
  | .bari d b => Sys2Proof.Machine.execBari d b s
  | .tset d a n e => Sys2Proof.Machine.execTset d a n e s
  | .tdec d a b => Sys2Proof.Machine.execTdec d a b s
  | .launch d a e => Sys2Proof.Machine.execLaunch d a e s
  | .trap code => Sys2Proof.Machine.execTrap code s
  | .brk code => Sys2Proof.Machine.execBrk code s
  | .fence0 => Sys2Proof.Machine.execFence0 s
  | .fence1 => Sys2Proof.Machine.execFence1 s
  | .csrr d csr => Sys2Proof.Machine.execCsrr d csr s
  | .csrw d csr => Sys2Proof.Machine.execCsrw d csr s
  | .pwrq d sel => Sys2Proof.Machine.execPwrq d sel s
  | .svsend d a n => Sys2Proof.Machine.execSvsend d a n s
  | .redlv d a e => Sys2Proof.Machine.execRedlv d a e s
  | .stabt a b e => Sys2Proof.Machine.execStabt a b e s
  | .stcmt a b e => Sys2Proof.Machine.execStcmt a b e s
  | .mapw d a e => Sys2Proof.Machine.execMapw d a e s
  | .pqdataRead d => Sys2Proof.Machine.execPqdataRead d s
  | .pqdataWrite d => Sys2Proof.Machine.execPqdataWrite d s
  | .cycleRead d => Sys2Proof.Machine.execCycleRead d s
  | .fqbaseWrite d => Sys2Proof.Machine.execFqbaseWrite d s
  | .fqheadWrite d => Sys2Proof.Machine.execFqheadWrite d s
  | .messageArrival idx => Sys2Proof.Machine.execMessageArrival idx s
  | .sumpReturn die core => Sys2Proof.Machine.execSumpReturn die core s
  | .dispatch core sup => Sys2Proof.Machine.execDispatch core sup s
  | .budgetExpiry core ctx => Sys2Proof.Machine.execBudgetExpiry core ctx s
  | .releaseResume core ctx => Sys2Proof.Machine.execReleaseResume core ctx s
  | .iterativeCommit core => Sys2Proof.Machine.execIterativeCommit core s
  | .portWordArrival idx => Sys2Proof.Machine.execPortWordArrival idx s
  | .portPlaceReturn idx => Sys2Proof.Machine.execPortPlaceReturn idx s
  | .globalReadReply idx => Sys2Proof.Machine.execGlobalReadReply idx s
  | .atomicAtOwner core => Sys2Proof.Machine.execAtomicAtOwner core s
  | .taskDecrement core => Sys2Proof.Machine.execTaskDecrement core s
  | .farStoreTranslation idx => Sys2Proof.Machine.execFarStoreTranslation idx s
  | .farStoreAccept idx => Sys2Proof.Machine.execFarStoreAccept idx s
  | .acceptanceNotice idx => Sys2Proof.Machine.execAcceptanceNotice idx s
  | .stallLimit station => Sys2Proof.Machine.execStallLimit station s
  | .readServe idx => Sys2Proof.Machine.execReadServe idx s
  | .arrivalReport core => Sys2Proof.Machine.execArrivalReport core s
  | .applySignal pid station => Sys2Proof.Machine.execApplySignal pid station s
  | .applyDone pid station => Sys2Proof.Machine.execApplyDone pid station s
  | .commitNotice pid => Sys2Proof.Machine.execCommitNotice pid s
  | .stepDecision => Sys2Proof.Machine.execStepDecision s
  | .mapwExecute => Sys2Proof.Machine.execMapwExecute s
  | .copyRequest cluster => Sys2Proof.Machine.execCopyRequest cluster s
  | .copyReadReturn idx => Sys2Proof.Machine.execCopyReadReturn idx s
  | .cpputDelivery idx => Sys2Proof.Machine.execCpputDelivery idx s
  | .copyCompletion cluster idx => Sys2Proof.Machine.execCopyCompletion cluster idx s
  | .waitTimeout cluster idx => Sys2Proof.Machine.execWaitTimeout cluster idx s
  | .leaveGrant die => Sys2Proof.Machine.execLeaveGrant die s
  | .matrixCommandEnd cluster => Sys2Proof.Machine.execMatrixCommandEnd cluster s
  | .drainAddArrival idx => Sys2Proof.Machine.execDrainAddArrival idx s
  | .drainAddApply cluster => Sys2Proof.Machine.execDrainAddApply cluster s
  | .passGrant cluster => Sys2Proof.Machine.execPassGrant cluster s
  | .vectorResultWrite core => Sys2Proof.Machine.execVectorResultWrite core s
  | .launchRequest => Sys2Proof.Machine.execLaunchRequest s
  | .placement => Sys2Proof.Machine.execPlacement s
  | .preemption => Sys2Proof.Machine.execPreemption s
  | .releaseCluster => Sys2Proof.Machine.execReleaseCluster s
  | .releaseLaunch => Sys2Proof.Machine.execReleaseLaunch s
  | .preemptLaunch => Sys2Proof.Machine.execPreemptLaunch s
  | .removeLaunch => Sys2Proof.Machine.execRemoveLaunch s
  | .drainPhase cluster => Sys2Proof.Machine.execDrainPhase cluster s
  | .freeClusterReport die => Sys2Proof.Machine.execFreeClusterReport die s
  | .supervisorQueueWrite core => Sys2Proof.Machine.execSupervisorQueueWrite core s
  | .hostRecordSend => Sys2Proof.Machine.execHostRecordSend s
  | .fabricPacketReceive => Sys2Proof.Machine.execFabricPacketReceive s
  | .acknowledgementReceive chip cls seq => Sys2Proof.Machine.execAcknowledgementReceive chip cls seq s
  | .resendTimeout chip cls => Sys2Proof.Machine.execResendTimeout chip cls s
  | .portStateChange port up => Sys2Proof.Machine.execPortStateChange port up s
  | .hunreachWrite chip => Sys2Proof.Machine.execHunreachWrite chip s
  | .hostRegisterWrite reg v => Sys2Proof.Machine.execHostRegisterWrite reg v s
  | .powerBudgetWrite v => Sys2Proof.Machine.execPowerBudgetWrite v s
  | .clusterOn cluster => Sys2Proof.Machine.execClusterOn cluster s
  | .clusterIdle cluster => Sys2Proof.Machine.execClusterIdle cluster s
  | .clusterOff cluster => Sys2Proof.Machine.execClusterOff cluster s
  | .clusterReset cluster => Sys2Proof.Machine.execClusterReset cluster s
  | .clusterClockStop cluster => Sys2Proof.Machine.execClusterClockStop cluster s
  | .clusterWake cluster => Sys2Proof.Machine.execClusterWake cluster s
  | .thermalSample die temp => Sys2Proof.Machine.execThermalSample die temp s
  | .hostSumpQuota die stage bytes => Sys2Proof.Machine.execHostSumpQuota die stage bytes s
  | .rekey port key => Sys2Proof.Machine.execRekey port key s
  | .attestationRequest nonce => Sys2Proof.Machine.execAttestationRequest nonce s
  | .chipReset => Sys2Proof.Machine.execChipReset s
  | .bootStage image signature => Sys2Proof.Machine.execBootStage image signature s
  | .endOfBoot => Sys2Proof.Machine.execEndOfBoot s
  | .streamElement core => Sys2Proof.Machine.execStreamElement core s
  | .hostBootSetting h => Sys2Proof.Machine.execHostBootSetting h s
  | .pidRetire pid => Sys2Proof.Machine.execPidRetire pid s

end Sys2Proof.Machine
end

