-- ==== Sys2Proof/Machine/Turn.lean ====
section
/-! DEFINITION. Sys2Proof/Machine/Turn.lean: what one turn does (assumption 2): a context issues the instruction at its
PC (R274), an event of the device takes place, or something comes from outside. -/

namespace Sys2Proof.Machine

/-- What an encoding raises (R232, R434). -/
def rejectTrap (s : State) (core pc : Nat) : Reject → TrapInfo
  | .prefixAtEnd => ⟨1, 0x10000, (s.parcel core pc).setWidth 32⟩
  | .fifthPrefix p => ⟨1, 0x20000 + p.setWidth 32, (s.parcel core pc).setWidth 32⟩
  | _ => let (ip, first) := s.parcelPair core pc
         ⟨1, ip.setWidth 32, first.setWidth 32⟩

/-- The cursor on an instruction of a context; late: its stores perform later (R129). -/
def State.setCur (s : State) (core c pc len : Nat) (late : Bool) : State :=
  let (ip, first) := s.parcelPair core pc
  { s with cur := ⟨core, c, pc, pc + len, ip, first, [], late⟩ }

/-- The instruction at the PC of a context: BUDGET first (R28, R234), then the encoding (R274, R434), then the
instruction. A pending STEP that a SEAL has left blocks all of it (R371), a TSET until its words are written (R389). -/
def issueNow (core c : Nat) (late : Bool) (s : State) : Out :=
  match s.act core c with
  | none => .next s
  | some a =>
    if a.deadline ≤ s.now then execBudgetExpiry core c s
    else if s.stepBlocked core c then .next (s.proceed core c)
    else if s.streaming core c || s.recording core c then .next s
    else if 65536 ≤ a.pc then .next ((s.setCur core c 65535 1 late).issued.trap core c ⟨1, 0x10000, 0⟩ 65535 65535 [])
    else
      match decode (s.parcelsAt core a.pc) with
      | .error e => .next ((s.setCur core c a.pc 1 late).issued.trap core c (rejectTrap s core a.pc e) a.pc a.pc [])
      | .ok (i, len) => exec i (s.setCur core c a.pc len late)

/-- A context may issue in this cycle but for what its instruction waits for (R45): it runs an activation on a cluster that
is ON, no operand of it is in flight (assumption 77), and it did not issue in the previous cycle. -/
def mayIssue (s : State) (core c : Nat) : Bool :=
  let k := s.core core
  (s.act core c).isSome && (s.cluster (clusterOf core)).power == .on && decide ((s.ctx core c).busy ≤ s.now)
    && !(k.last == c && k.issuedAt == some (s.now - 1))

/-- A context is ready (R45): it may issue, and its instruction does. -/
def isReady (s : State) (core c : Nat) : Bool :=
  mayIssue s core c &&
    match issueNow core c false s with
    | .next t => (t.core core).issuedAt != (s.core core).issuedAt
    | _ => false

/-- The contexts of a core that come before a context in the cyclic order that starts after the one that issued last
(R45). -/
def beforeInTurn (s : State) (core c : Nat) : List Nat :=
  ((List.range 7).map fun i => ((s.core core).last + i) % 7 + 1).takeWhile fun x => x != c

/-- It is a context's turn (R45): context 0 is not ready, nor is any context before it. -/
def hasTurn (s : State) (core c : Nat) : Bool :=
  mayIssue s core c && !serviceReady s core && (beforeInTurn s core c).all fun x => !isReady s core x

/-- A context issues when it has its turn; else the core issues nothing here. -/
def issueTurn (core c : Nat) (late : Bool) (s : State) : Out :=
  if hasTurn s core c then issueNow core c late s else .next s

/-- An operation or event of the device: the constructors of Instr that no word encodes. -/
def isEvent (i : Instr) : Bool := (encodeRaw i).isNone

/-- The addresses that the element in hand of a stream reads, in order. -/
def elementReads (s : State) (core c : Nat) (r : StreamRun) : List Nat := r.sources.map fun p => ((s.ctx core c).pa[p]).toNat

/-- An operand of the element in hand of a context's stream lies at an address, and those of the TCM before it have been read: each is
an access of its own (R55, R125, R128). -/
def streamNext (s : State) (core c addr : Nat) : Bool :=
  match (s.core core).stream with
  | none => false
  | some r =>
    r.ctx == c && match (elementReads s core c r).span fun a => a != addr with
      | (before, _ :: _) => before.all fun a => decide (0x100000 ≤ a) || (s.ctx core c).views.any fun x => x.addr == a
      | _ => false

/-- The next instruction of a context is an LDD that reads the word at an address. -/
def loadsPair (s : State) (core c addr : Nat) : Bool :=
  !s.streaming core c && (s.act core c).elim false fun a =>
    match decode (s.parcelsAt core a.pc) with
    | .ok (.ldd _ m, _) =>
      let ea := ((s.ctx core c).pa[m.p] + wInt (m.off * 8)).toNat
      decide (ea ≤ addr ∧ addr < ea + 8)
    | _ => false

/-- A context may read a word ahead (R125, R128, R129): a word of the scratchpad; of the TCM one of the two words of the LDD that
comes next, or the next operand of the element in hand of its stream, once the stores of the context and of its stream to the TCM
have performed. -/
def mayReadAhead (s : State) (core c addr : Nat) : Bool :=
  (s.act core c).isSome && localOk (addr - addr % 4) 4 &&
    (decide (0x100000 ≤ addr)
      || (((s.ctx core c).lateStores.all fun x => x.kind == .vector || decide (0x100000 ≤ x.addr))
          && (loadsPair s core c addr || streamNext s core c addr)))

/-- One turn. -/
def runTurn (t : Turn) (s : State) : Out :=
  match t with
  | .issue core c => if core < coreCount ∧ 1 ≤ c ∧ c ≤ 7 then issueTurn core c false s else .next s
  | .issueLate core c => if core < coreCount ∧ 1 ≤ c ∧ c ≤ 7 then issueTurn core c true s else .next s
  | .perform core c i => .next (s.performTurn core c i)
  | .vecRead core k a => .next (vecReadTurn core k a s)
  | .engineRead cl none off => .next (s.mxReadAhead cl off)
  | .engineRead cl (some id) off => .next (cpReadAhead s cl id off)
  | .engineWrite cl copy i j => .next (s.engTurn cl copy i j)
  | .readAhead core c a => .next (if mayReadAhead s core c a then s.readAhead core c a else s)
  | .latency core c n => .next (if c = 0 then s.updCore core fun k => { k with serviceBusy := s.now + n }
      else s.updCtx core c fun x => { x with busy := s.now + n })
  | .event i => if isEvent i then exec i s else .next s
  | .eventLate i => if isEvent i then exec i s else .next s
  | .wait n => .next { s with now := s.now + n }
  | .softError p a e => .next (s.updMem p fun m => m.setErr (a - a % 4) e)
  | .mismatch core n v => .next (s.updCore core fun k => { k with mism := k.mism + n, vmism := k.vmism + v })
  | .residue cl n => .next (s.updCluster cl fun x => { x with mxMiss := x.mxMiss + n })
  | .frame f => if f.port = 18 then hostFrame f s else .next { s with frames := s.frames ++ [f] }
  | .hostMsg m => .next (s.hostMessage m)

/-! ## The schedule when no turn is listed (assumption 2) -/

/-- Events under a condition. -/
def offer (b : Bool) (l : List Instr) : List Turn := if b then l.map Turn.event else []

/-- Indices of a list. -/
def indices {α : Type} (l : List α) : List Nat := List.range l.length

/-- Turns of the contexts: instructions, releases that go on, budgets. -/
def ctxTurns (s : State) : List Turn :=
  s.ctxs.flatMap fun e =>
    let core := e.1 / 8
    let c := e.1 % 8
    (if e.2.act.isSome then [Turn.issue core c] else []) ++ (if e.2.lateStores.isEmpty && e.2.lateLoads.isEmpty && e.2.undo.isNone then []
        else [Turn.perform core c 0])
      ++ offer (!e.2.handing.isEmpty || !e.2.waiting.isEmpty || e.2.act.elim false fun a => decide (0 < a.steps)) [.releaseResume core c]
      ++ offer (e.2.act.elim false fun a => decide (a.deadline ≤ s.now + 1)) [.budgetExpiry core c]

/-- Turns of the cores. -/
def coreTurns (s : State) : List Turn :=
  s.cores.flatMap fun e =>
    let c := e.1
    let k := e.2
    offer (!k.buf.isEmpty) [.dispatch c false, .dispatch c true, .atomicAtOwner c, .taskDecrement c, .supervisorQueueWrite c]
      ++ offer k.iter.isSome [.iterativeCommit c] ++ offer k.stream.isSome [.streamElement c]
      ++ offer (!k.vq.isEmpty) [.vectorResultWrite c]
      ++ offer (k.joined.isSome && (k.ret || !k.arrived.isEmpty)) [.arrivalReport c]

/-- Turns of the clusters. -/
def clusterTurns (s : State) : List Turn :=
  s.clusters.flatMap fun e =>
    let c := e.1
    let x := e.2
    offer (!x.cpq.isEmpty) (.copyRequest c :: (indices x.cpq).flatMap fun i => [.copyCompletion c i, .waitTimeout c i])
      ++ offer (!x.mxq.isEmpty) [.matrixCommandEnd c, .drainAddApply c]
      ++ (if x.mxLate.isEmpty then [] else [Turn.engineWrite c false 0 0]) ++ (if x.cpLate.isEmpty then [] else [Turn.engineWrite c true 0 0])
      ++ offer ((coresOf c).any fun k => !(s.core k).vq.isEmpty) [.passGrant c]
      ++ offer x.drain.isSome [.drainPhase c] ++ offer x.trans.isSome [.clusterClockStop c, .clusterWake c]

/-- Turns of the dies, stations and domains. -/
def unitTurns (s : State) : List Turn :=
  (s.dies.flatMap fun e =>
      offer (!e.2.leaveQ.isEmpty) [.leaveGrant e.1] ++ offer true (e.2.sump.map fun x => .sumpReturn e.1 x.core))
    ++ (s.stations.flatMap fun e => offer e.2.stallSince.isSome [.stallLimit e.1])
    ++ (s.domains.flatMap fun e =>
      let pid := BitVec.ofNat 16 e.1
      offer (e.2.phase == .apply || e.2.signalled)
          ((List.range 32).flatMap fun i => [.applySignal pid i, .applyDone pid i])
        ++ offer true [.commitNotice pid] ++ offer (!e.2.decisions.isEmpty) [.stepDecision]
        ++ offer true (e.2.ghosts.map fun g => .arrivalReport g.2.1))
    ++ ((List.range 8).flatMap fun d => offer (s.clusters.any fun e =>
      dieOfCluster e.1 == d && e.2.reportedFree != s.isFree e.1) [.freeClusterReport d])

/-- Turns of what is in flight, of the distributor, the gateways and the host port. -/
def flightTurns (s : State) : List Turn :=
  offer (!s.net.isEmpty) [.messageArrival 0] ++ offer (!s.portWords.isEmpty) [.portWordArrival 0]
    ++ offer (!s.portPlaces.isEmpty) [.portPlaceReturn 0] ++ offer (!s.notices.isEmpty) [.acceptanceNotice 0]
    ++ offer true ((indices s.replies).flatMap fun i => [.globalReadReply i, .copyReadReturn i])
    ++ offer true ((indices s.stores).flatMap fun i => [.farStoreTranslation i, .farStoreAccept i])
    ++ offer true ((indices s.reads).map fun i => .readServe i)
    ++ offer true ((indices s.deliveries).map fun i => .cpputDelivery i)
    ++ offer (!s.adds.isEmpty) [.drainAddArrival 0] ++ offer (!s.mapws.isEmpty) [.mapwExecute]
    ++ offer (!s.dist.inbox.isEmpty) [.launchRequest, .releaseCluster, .releaseLaunch, .preemptLaunch, .removeLaunch]
    ++ offer (!s.dist.queue.isEmpty) [.placement, .preemption] ++ offer (!s.hostRecs.isEmpty) [.hostRecordSend]
    ++ offer (!s.frames.isEmpty) [.fabricPacketReceive]
    ++ offer true ((s.conns.filter fun c => !c.unacked.isEmpty).map fun c => .resendTimeout c.chip c.cls)

/-- The turns that the machine may take by itself. -/
def candidates (s : State) : List Turn :=
  ctxTurns s ++ coreTurns s ++ clusterTurns s ++ unitTurns s ++ flightTurns s

/-- The turn that comes when none is listed: the agents in rotation, with passing time. -/
def defaultTurn (s : State) : Turn :=
  let l := candidates s
  (l[s.focus % (l.length + 1)]?).getD (.wait 1)

/-- Every activation whose budget has run out is aborted in the cycle in which it does (R28, R52). -/
def expireAll (s : State) : State :=
  s.ctxs.foldl (fun s e =>
    match execBudgetExpiry (e.1 / 8) (e.1 % 8) s with
    | .next t => t
    | _ => s) s

/-- A cycle passes: budgets run out, what waits for room to be parked is tried, and the copy engines see which lines are
empty. -/
def tick (s : State) : State := noteAllWaits ((expireAll { s with now := s.now + 1 }).parkRetryAll.retryLater)

/-- In a turn of this kind what is read and written of local memory performs later (R125, R129, R142). -/
def Turn.isLate : Turn → Bool
  | .issueLate _ _ => true
  | .eventLate _ => true
  | _ => false

/-- The state in which a turn begins: a cycle has passed. -/
def turnStart (t : Option Turn) (s : State) : State := tick { s with cur := { s.cur with late := t.elim false Turn.isLate } }

/-- One step: a cycle passes, and the next turn is taken. -/
def advance (s : State) : Out :=
  match s.turns with
  | [] => runTurn (defaultTurn (turnStart none s)) { turnStart none s with focus := s.focus + 1 }
  | t :: r => runTurn t { turnStart (some t) s with turns := r }

end Sys2Proof.Machine
end

