-- ==== Sys2Proof/Machine/Step.lean ====
section
/-! DEFINITION. Sys2Proof/Machine/Step.lean: the step of the machine, and the placing of one instruction where the next
step fetches it. -/

namespace Sys2Proof.Machine

/-- One step: one turn of one agent (assumption 2). -/
def step (s : State) : Host.Outcome State Fault Refusal := advance s

/-- The activation that withFetchWord gives to context 7 of core 0 when it runs none. -/
def fetchAct (now : Nat) : Act := ⟨0, Msg.blank, 0x100000, now + 0x100000, true, [], 0, [], false, [], none⟩

/-- The state with an instruction of the opcode table's bits at parcel 0 of cluster 0, and the next turn an issue of
context 7 of core 0, which runs an activation at that parcel (assumption 9). -/
def State.withFetchWord (s : State) (nbits w : Nat) : State :=
  let ps := tableParcels nbits w
  let s := s.updCluster 0 fun x => { x with
    power := .on
    stoppedAt := none
    code := (List.range 6).foldl (fun t i => Tab.put 0 t i (ps.getD i 0)) x.code }
  let s := s.updCtx 0 7 fun x => { x with act := some { x.act.getD (fetchAct s.now) with pc := 0 } }
  { s with turns := .issue 0 7 :: s.turns }

end Sys2Proof.Machine
end

