-- ==== Sys2Proof/Safety.lean ====
section
/-! DEFINITION. Sys2Proof/Safety.lean: what counts as a safe run, and the terms in which claims speak of an instruction's
issue and of what it leaves alone. -/

namespace Sys2Proof.Machine

/-- k steps from a state. -/
def run (s : State) : Nat → Host.Outcome State Fault Refusal
  | 0 => .next s
  | k + 1 =>
    match step s with
    | .next t => run t k
    | o => o

/-- An outcome that goes on. -/
def goesOn : Host.Outcome State Fault Refusal → Bool
  | .next _ => true
  | _ => false

/-- A state from which k steps run safely. -/
def Safe (s : State) (k : Nat) : Prop := goesOn (run s k) = true

/-! ## Issue -/

/-- The issuing context runs an activation, no pending STEP blocks it past its prefix (R371), nothing that the
instruction names awaits a result and none of it brought a fault (R29, R333), and no stream of the context runs (R55): it
comes to its checks. -/
def attends (f : Form) (s : State) : Bool :=
  let core := s.cur.core
  let c := s.cur.ctx
  (s.act core c).isSome && !s.stepBlocked core c
    && !(s.awaited core c).any f.named.contains && !s.streaming core c
    && (s.faulted core c).all fun m => m.regs.all fun r => !f.named.contains (.g r)

/-- And no link that it uses is closed (R60). -/
def unheld (f : Form) (s : State) : Bool := attends f s && (s.closedPort s.cur.core s.cur.ctx f).isNone

/-- The state in which an instruction reads its operands: the prefix ended first when it must be (R30, R33). -/
def entered (must : Bool) (s : State) : State := if must then s.sealPrefix s.cur.core s.cur.ctx else s

/-- The operand fields before any pop. -/
def peeked (f : Form) (s : State) : Vals := s.peeks s.cur.core s.cur.ctx [] f

/-- The operand values at issue, ports popped (R59), and the state after the pops. -/
def operands (must : Bool) (f : Form) (s : State) : Vals × State := (entered must s).takes s.cur.core s.cur.ctx f

/-- An instruction with these fields issues in this step, whatever it computes; must: it ends the prefix first, for
which no earlier access of the context may be outstanding (R130) and no pending STEP may wait (R371). Its pops have
their words and its push has room (R58, R59), and no checker mismatch is due (R49). -/
def issues (must : Bool) (f : Form) (s : State) : Bool :=
  let core := s.cur.core
  let c := s.cur.ctx
  let u := entered must s
  unheld f s
    && (!must || (!s.releaseWaits core c && !u.stepBlocked core c))
    && u.portsReady core c f && !(f.dst.port.isSome && u.releaseWaits core c)
    && ((operands must f s).2.core s.cur.core).mism == 0

/-- An instruction that names a port ends the prefix while it lasts (R33). -/
def portSeal (f : Form) (s : State) : Bool := f.ports && s.isOpen s.cur.core s.cur.ctx

/-- An instruction without waits and seals of its own issues in this step. -/
def issuesPlain (f : Form) (s : State) : Bool := issues (portSeal f s) f s

/-- Its operand values, and the state after its seal and its pops. -/
def operandsPlain (f : Form) (s : State) : Vals × State := operands (portSeal f s) f s

/-- An answer that is the next state t. -/
abbrev Gives (i : Instr) (s t : State) : Prop := exec i s = .next t

/-- An instruction that takes a send-buffer entry and finds 16 of them ends the prefix first, once its checks have passed
(R30, R33); so does one that names a port. far: it is a far store. -/
def sendSeal (far : Bool) (f : Form) (s : State) : Bool :=
  s.isOpen s.cur.core s.cur.ctx && (far || f.ports || s.bufferFull)

/-- It issues in this step; a buffer that is still full past the prefix makes a release, which nothing of its context
delays (R130) and which gives it a place. -/
def sendsAs (far : Bool) (f : Form) (s : State) : Bool :=
  let u := entered (sendSeal far f s) s
  issues (sendSeal far f s) f s && u.bufferRoom && !(u.bufferFull && u.releaseWaits s.cur.core s.cur.ctx)

/-- The state in which the entry of a send takes its place: the buffer released when it was full. -/
def withRoom (u : State) : State := if u.bufferFull then u.sealPrefix u.cur.core u.cur.ctx else u

/-- Its operand values, and the state after its seal, its pops and the release of a full buffer. -/
def sendOperandsAs (far : Bool) (f : Form) (s : State) : Vals × State :=
  ((operands (sendSeal far f s) f s).1, withRoom (operands (sendSeal far f s) f s).2)

/-- A send that is no far store. -/
abbrev sends (f : Form) (s : State) : Bool := sendsAs false f s

/-- Its operands. -/
abbrev sendOperands (f : Form) (s : State) : Vals × State := sendOperandsAs false f s

/-- The states in which a send checks its words: as it finds them, and after its seal and its pops. -/
def checksIn (f : Form) (s : State) : List State := [s, (operands (sendSeal false f s) f s).2]

/-- An endpoint pair has no reserved bit set (R89) and resolves (R90, R92) wherever the send looks, and where its entry takes
its place. -/
def reachable (f : Form) (s : State) (e : Word × Word) : Prop :=
  e.1.toNat < 65536 ∧ e.2.toNat < 2 ^ 22 ∧ (∀ x ∈ checksIn f s, (x.endpoint e).1 ≠ .dead) ∧
  ((sendOperands f s).2.endpoint e).1 ≠ .dead

/-- A message carries its sender's name, process and step, and a payload (R15, R17). -/
def sentBy (u : State) (m : Msg) (kind : Nat) (body : List Word) : Prop :=
  let k := u.core u.cur.core
  m.score = k.lcore ∧ m.schip = k.rank ∧ m.pid = k.pid ∧ m.stag.toNat = k.s.toNat % 65536 ∧
  m.sctx.toNat = u.cur.ctx % 8 ∧ m.kind.toNat = kind ∧ m.body = body ∧ m.nw.toNat = body.length ∧
  m.rcnt = 0 ∧ m.fwd = false ∧ m.div = false

/-- A message carries a handler word in H4 (R15). -/
def carriesHandler (m : Msg) (hw : Word) : Prop :=
  m.entry.toNat = hw.toNat % 2 ^ 16 ∧ m.prio.toNat = hw.toNat / 2 ^ 16 % 2 ^ 6 ∧ m.rel = hw.getLsbD 23 ∧
  m.utag.toNat = hw.toNat / 2 ^ 24 % 2 ^ 7

/-- A message goes where an endpoint resolves to (R90, R92); SV is set for LCORE 0xFFFE. -/
def addressed (u : State) (m : Msg) (e : Word × Word) : Prop :=
  (match (u.endpoint e).1 with
   | .here c k => m.dcore = c ∧ m.dkey = k ∧ m.dchip = u.chip
   | .far chip l => m.dcore = 0 ∧ m.dkey = 0 ∧ m.dchip = chip ∧ m.goal = l
   | .dead => False) ∧
  m.sv = (u.endpoint e).2

/-- A load of n bytes at a local address finds it aligned, inside TCM or the scratchpad, its line not poisoned and its
words without an error. -/
def loadable (s : State) (core a n : Nat) : Bool :=
  let clean (w : Nat) : Bool := ((s.mem (placeOf core w)).err (offsetOf w)).isNone
  decide (a % n = 0) && localOk a n && !s.poisoned core a && clean (a - a % 4) && (n != 8 || clean (a + 4))

/-- The word that holds a local address, as an access of a context to it finds it: its own loads and stores of the word performed
(R127). -/
def settledFor (s : State) (core c a : Nat) : State := s.awaitStores core c a

/-- A context has not read ahead the word that holds a local address. -/
def unviewed (s : State) (core c a : Nat) : Bool := (s.ctx core c).views.all fun x => x.addr != a - a % 4

/-! ## What a step leaves alone -/

/-- The loads and stores of the issuing context have performed (R130). -/
def performed (s : State) : State := s.flush s.cur.core s.cur.ctx

/-- The loads and stores of the issuing context perform before an instruction that ends the prefix, or that writes a port, does
anything else (R130). -/
def afterStores (must : Bool) (f : Form) (s : State) : State := if must || f.dst.port.isSome then performed s else s

/-- Every byte of every memory reads as before. -/
def sameBytes (s t : State) : Prop := ∀ p a, (t.mem p).byte a = (s.mem p).byte a

/-- Every byte of every memory reads as before but n bytes of one memory from an address. -/
def bytesBut (p : MemPlace) (a n : Nat) (s t : State) : Prop :=
  ∀ q x, ¬(q = p ∧ a ≤ x ∧ x < a + n) → (t.mem q).byte x = (s.mem q).byte x

/-- The registers of a context that no instruction names as d: pointers, strides, FFLAGS, the CYCLE latch. -/
def Ctx.others (x : Ctx) : Vector Word 8 × Vector (BitVec 16) 8 × BitVec 5 × Word := (x.pa, x.ps, x.fflags, x.chi)

/-- Every register of every other context than the issuing one of s reads as before. -/
def otherContexts (s t : State) : Prop :=
  ∀ core c, 8 * core + c ≠ 8 * s.cur.core + s.cur.ctx →
    (t.ctx core c).g = (s.ctx core c).g ∧ (t.ctx core c).lk = (s.ctx core c).lk ∧
    (t.ctx core c).others = (s.ctx core c).others

/-- Every register g0 to g15 and lk of the issuing context of s reads as before but those of a list. -/
def registersBut (ds : List Reg) (s t : State) : Prop :=
  (∀ n : Fin 16, Reg.g n ∉ ds → (t.ctx s.cur.core s.cur.ctx).g[n] = (s.ctx s.cur.core s.cur.ctx).g[n]) ∧
  (Reg.lk ∉ ds → (t.ctx s.cur.core s.cur.ctx).lk = (s.ctx s.cur.core s.cur.ctx).lk)

/-- What a context holds beside its registers: its send buffer, its port queues, its stores, loads and words read ahead. -/
def Ctx.queues (x : Ctx) : List (List Buffered) × Vector (List Word) 4 × Vector Nat 4 × List LateStore × List LateLoad ×
    List NearView × Nat × Option Undo :=
  (x.sbuf :: x.handing :: x.waiting, x.inq, x.outq, x.lateStores, x.lateLoads, x.views, x.busy, x.undo)

/-- Every part of the machine reads as before but the registers of contexts, the PC of activations, and which context
issued last and when: every control and status register, vector register, accumulator, queue, buffer and special
register. -/
def specialsSame (s t : State) : Prop :=
  t = { s with ctxs := t.ctxs, cores := t.cores } ∧
  (∀ k, { t.core k with last := 0, issuedAt := none } = { s.core k with last := 0, issuedAt := none }) ∧
  ∀ k c, (t.ctx k c).queues = (s.ctx k c).queues ∧
    (t.act k c).map (fun a => { a with pc := 0 }) = (s.act k c).map fun a => { a with pc := 0 }

/-- The PC of the issuing context of s stands at the successor of its instruction. -/
def pcNext (s t : State) : Prop := (t.act s.cur.core s.cur.ctx).map Act.pc = some s.cur.next

/-! ## A release (R30) -/

/-- The messages, matrix commands and copy commands among the entries of a send buffer. -/
def messagesOf (l : List Buffered) : List Msg := l.filterMap fun | .msg m => some m | _ => none
/-- The matrix commands. -/
def matrixOf (l : List Buffered) : List MxCmd := l.filterMap fun | .matrix m => some m | _ => none
/-- The copy commands. -/
def copiesOf (l : List Buffered) : List CpCmd := l.filterMap fun | .copy m => some m | _ => none

/-- The entries are messages for cores of this chip and engine commands, and the engine queues have a place for each command,
with nobody waiting before them (R188, R213). -/
def released (s : State) (core : Nat) (l : List Buffered) : Prop :=
  let x := s.cluster (clusterOf core)
  (∀ b ∈ l, (∃ m, b = .msg m ∧ m.dchip = s.chip) ∨ (∃ m, b = .matrix m) ∨ ∃ m, b = .copy m) ∧
  x.mxWait = [] ∧ x.cpWait = [] ∧ x.mxq.length + (matrixOf l).length ≤ 32 ∧ x.cpq.length + (copiesOf l).length ≤ 64

/-- A release has handed every entry on in program order (R30): the messages are in the mesh under consecutive numbers of the
core (R16), the commands in their engine queues. -/
def handedOn (core : Nat) (l : List Buffered) (s t : State) : Prop :=
  let x := s.cluster (clusterOf core)
  let y := t.cluster (clusterOf core)
  let k := s.core core
  t.net = s.net ++ (messagesOf l).zipIdx.map (fun m => { m.1 with seq := k.seq + w32 m.2 }) ∧
  (t.core core).seq = k.seq + w32 (messagesOf l).length ∧
  y.mxq = x.mxq ++ (matrixOf l).map .cmd ∧
  y.cpq = x.cpq ++ (copiesOf l).zipIdx.map fun m => { m.1 with id := x.nextCp + m.2, entered := s.now }

/-! ## Special values of FP32, written on the bits of a word (R145, R148) -/

/-- The exponent field of an FP32 word. -/
def expField (x : Word) : Nat := x.toNat / 2 ^ 23 % 256
/-- The fraction field of an FP32 word. -/
def fracField (x : Word) : Nat := x.toNat % 2 ^ 23
/-- A NaN. -/
def wordNan (x : Word) : Prop := expField x = 255 ∧ fracField x ≠ 0

/-! ## Rounding, as R146, R152, R154 and R161 give it -/

/-- The magnitude of an encoding of a floating-point format, its sign taken off (R146). -/
def fmtMag (f : Fmt) (m : Nat) : ℚ :=
  if m / 2 ^ f.frac = 0 then (m : ℚ) * 2 ^ (1 - (f.bias : ℤ) - f.frac)
  else ((2 ^ f.frac + m % 2 ^ f.frac : ℕ) : ℚ) * 2 ^ (((m / 2 ^ f.frac : ℕ) : ℤ) - f.bias - f.frac)

/-- The value of an encoding that is neither an infinity nor a NaN (R146). -/
def fmtVal (f : Fmt) (bits : Nat) : ℚ :=
  (if bits / 2 ^ (f.width - 1) % 2 = 1 then -1 else 1) * fmtMag f (bits % 2 ^ (f.width - 1))

/-- The value of an FP32 word that is neither an infinity nor a NaN. -/
def wordVal (x : Word) : ℝ := (fmtVal .fp32 x.toNat : ℚ)

/-- A real number rounds, in a mode 0 to 4, beyond the largest finite value of a format (R152). -/
def overflows (f : Fmt) (r : Rnd) (v : ℝ) : Prop :=
  let top : ℝ := (fmtMag f f.maxBits : ℚ)
  let next : ℝ := (fmtMag f (f.maxBits + 1) : ℚ)
  match r with
  | .rne => top + next < 2 * |v| ∨ (top + next = 2 * |v| ∧ f.maxBits % 2 = 1)
  | .rtz => next ≤ |v|
  | .rup => top < v ∨ v ≤ -next
  | .rdn => v < -top ∨ next ≤ v
  | .rna => top + next ≤ 2 * |v|
  | .sr => False

/-- The result of an overflow (R154). -/
def overflowed (f : Fmt) (r : Rnd) (sat neg : Bool) : Nat :=
  let signed (n : Nat) : Nat := n + if neg then 2 ^ (f.width - 1) else 0
  if sat ∨ r = .rtz ∨ (r = .rup ∧ neg = true) ∨ (r = .rdn ∧ neg = false) then signed f.maxBits
  else if f = .e4m3 then 0x7F else if f = .e2m1 then signed 7 else signed f.infBits

/-- The magnitude of encoding m is the one that a mode 0 to 4 chooses for a real number (R151, R152). -/
def closest (f : Fmt) (r : Rnd) (v : ℝ) (m : Nat) : Prop :=
  let mag (k : Nat) : ℝ := (fmtMag f k : ℚ)
  let down : Prop := mag m ≤ |v| ∧ ∀ k, k ≤ f.maxBits → mag k ≤ |v| → k ≤ m
  let up : Prop := |v| ≤ mag m ∧ ∀ k, k ≤ f.maxBits → |v| ≤ mag k → m ≤ k
  let near (tie : Nat → Prop) : Prop := ∀ k, k ≤ f.maxBits →
    |(|v| - mag m)| ≤ |(|v| - mag k)| ∧ (k ≠ m → |(|v| - mag m)| = |(|v| - mag k)| → tie k)
  match r with
  | .rne => near fun _ => m % 2 = 0
  | .rtz => down
  | .rup => (v ≤ 0 → down) ∧ (0 < v → up)
  | .rdn => (0 ≤ v → down) ∧ (v < 0 → up)
  | .rna => near fun k => k < m
  | .sr => False

/-- The bits and flags of Round(v) in a mode 0 to 4 (R152 to R154). zero: the sign of a result that is exactly zero. -/
def rounded (f : Fmt) (r : Rnd) (sat zero : Bool) (v : ℝ) (bits : Nat) (fl : Flags) : Prop :=
  ∃ neg : Bool, (v < 0 → neg = true) ∧ (0 < v → neg = false) ∧ (v = 0 → neg = zero) ∧
    (overflows f r v → bits = overflowed f r sat neg ∧ fl = flagOF ||| flagNX) ∧
    (¬overflows f r v → ∃ m, m ≤ f.maxBits ∧ closest f r v m ∧ bits = m + (if neg then 2 ^ (f.width - 1) else 0) ∧
      ((fmtMag f m : ℚ) = |v| → fl = 0) ∧
      ((fmtMag f m : ℚ) ≠ |v| → fl = if m ≠ 0 ∧ m < 2 ^ f.frac then flagNX ||| flagUF else flagNX))

/-- The integer that a mode 0 to 4 chooses for a real number (R161). -/
def roundsInt (r : Rnd) (v : ℝ) (n : ℤ) : Prop :=
  match r with
  | .rne => |v - n| ≤ 1 / 2 ∧ (|v - n| = 1 / 2 → n % 2 = 0)
  | .rtz => |(n : ℝ)| ≤ |v| ∧ |v| < |(n : ℝ)| + 1 ∧ 0 ≤ v * n
  | .rup => v ≤ n ∧ (n : ℝ) < v + 1
  | .rdn => (n : ℝ) ≤ v ∧ v < n + 1
  | .rna => |v - n| ≤ 1 / 2 ∧ (|v - n| = 1 / 2 → |v| ≤ |(n : ℝ)|)
  | .sr => False

/-! ## The next line of a copy command (R203 to R206) -/

/-- The scratchpad offset of the block line that a copy command comes to next. -/
def CpCmd.lineAt (c : CpCmd) : Nat := c.b0.toNat % 2 ^ 19 + 128 * (c.next / 32)

/-- It is a line of the scratchpad. -/
def CpCmd.lineFits (c : CpCmd) : Prop := c.lineAt % 128 = 0 ∧ c.lineAt + 128 ≤ 0x80000

/-- That line as its engine reads it: words and poison. -/
def CpCmd.lineRead (c : CpCmd) (s : State) (cl : Nat) : LineData :=
  ⟨c.next / 32, (s.mem (.spad cl)).words c.lineAt 32, ((s.mem (.spad cl)).line (c.lineAt / 128)).p⟩

/-- The engine has read nothing of it ahead and has nothing of it to write, and the scratchpad holds no error. -/
def CpCmd.lineClean (c : CpCmd) (s : State) (cl : Nat) : Prop :=
  c.lineFits ∧ c.views = [] ∧ (s.cluster cl).spad.errs = [] ∧ ∀ y ∈ (s.cluster cl).cpLate, y.line ≠ c.lineAt / 128

/-- The command is in linear mode, with a stride of whole lines from 0 up, and comes to the first request of a line. -/
def CpCmd.linear (c : CpCmd) : Prop :=
  cpMode c.w = 0 ∧ c.next % 32 = 0 ∧ c.a.toNat % 128 = 0 ∧ cpWin c.w = 0 ∧ c.b1.toNat / 2 ^ 16 < 2 ^ 15

/-- The VA of that line. -/
def CpCmd.lineVa (c : CpCmd) : BitVec 64 := c.a + BitVec.ofNat 64 (c.next / 32 * (c.b1.toNat / 2 ^ 16) * 128)

/-! ## What matrix commands compute (R166 to R169, R177 to R186) -/

/-- Word i of row j of a load or a drain: its scratchpad offset, from the descriptor's words, rotated (R70, R177, R178). -/
def rowWordAt (a0 a1 : Word) (j i : Nat) : Nat :=
  let a := a0.toNat % 2 ^ 19 + j * (a1.toNat % 2 ^ 12) * 16 + 4 * i
  a / 128 * 128 + 4 * ((a / 4 + a1.toNat / 2 ^ 24 % 8 * j) % 32)

/-- From one word to another by n chunks of l products: each adds its exact sum, scaled, with one rounding, until the accumulator
is no number (R166). minus: a product is -0. -/
def chunksAdd (l n : Nat) (term scale : Nat → ℝ) (minus : Nat → Bool) (first last : Word) : Prop :=
  ∃ acc : Nat → Word, acc 0 = first ∧ acc n = last ∧ ∀ q, q < n → expField (acc q) ≠ 255 →
    ∃ fl, rounded .fp32 .rne false (acc q == 0x80000000 && (List.range l).all fun k => minus (q * l + k))
      (wordVal (acc q) + ((List.range l).map fun k => term (q * l + k)).sum * scale q) (acc (q + 1)).toNat fl

/-- What floating-point and MX input types make of an element: it the input type, f its format (R143, R149, R166); ra and rb the
bits of the operands' rows, xa and xb their scales. -/
def floatProduct (it : Nat) (f : Fmt) (ra rb xa xb : List Nat) (k : Nat) (old new : Word) : Prop :=
  let width := if it = 13 then 8 else f.width
  let l := if it = 0 then 4 else 16
  let value (b : Nat) : ℝ := if it = 13 then ((BitVec.ofNat 8 b).toInt : ℝ) / 64 else ((fmtVal f b : ℚ) : ℝ)
  let negative (b : Nat) : Bool := decide (2 ^ (width - 1) ≤ b)
  let scale (q : Nat) : ℝ := if 10 ≤ it then (2 : ℝ) ^ ((xa.getD (q * l / 32) 0 : ℤ) + (xb.getD (q * l / 32) 0 : ℤ) - 254) else 1
  (∀ b ∈ ra ++ rb, it = 13 ∨ b % 2 ^ (width - 1) ≤ f.maxBits) → (∀ b ∈ xa ++ xb, b ≠ 255) →
  chunksAdd l (k / l) (fun i => value (ra.getD i 0) * value (rb.getD i 0)) scale
    (fun i => negative (ra.getD i 0) != negative (rb.getD i 0)) old new

/-- A component of R169: the high and low parts h and lo take in the exact product p. -/
def partsAdd (p : ℝ) (h lo h' lo' : Word) : Prop :=
  ∃ u v zu zv zl, (∃ fl, rounded .fp32 .rne false zu p u.toNat fl) ∧
    (expField u ≠ 255 → ∃ fl, rounded .fp32 .rne false zv (p - wordVal u) v.toNat fl) ∧ (expField u = 255 → v = 0) ∧
    h' = (twoSum h u).1 ∧
    (expField lo ≠ 255 → expField (twoSum h u).2.1 ≠ 255 → expField v ≠ 255 →
      ∃ fl, rounded .fp32 .rne false zl (wordVal lo + wordVal (twoSum h u).2.1 + wordVal v) lo'.toNat fl)

/-- What CF32 makes of an element (R169): its four parts before and after, k by k; ra and rb the bits of the operands' rows, the
real component in the low word. -/
def complexProduct (ra rb : List Nat) (k : Nat) (old new : Nat → Word) : Prop :=
  ∃ z : Nat → Nat → Word, (∀ m, m < 4 → z 0 m = old m ∧ z k m = new m) ∧
    ∀ i, i < k →
      let re (l : List Nat) : Word := w32 (l.getD i 0 % 2 ^ 32)
      let im (l : List Nat) : Word := w32 (l.getD i 0 / 2 ^ 32)
      (∀ w ∈ [re ra, im ra, re rb, im rb], expField w ≠ 255) →
      partsAdd (wordVal (re ra) * wordVal (re rb) - wordVal (im ra) * wordVal (im rb)) (z i 0) (z i 1) (z (i + 1) 0) (z (i + 1) 1) ∧
      partsAdd (wordVal (re ra) * wordVal (im rb) + wordVal (im ra) * wordVal (re rb)) (z i 2) (z i 3) (z (i + 1) 2) (z (i + 1) 3)

/-- What a drain writes for an element of a real tile (R185): w its bits, int: those of an INT32; out: the bits of the output. -/
def drains (c : MxCmd) (f : Fmt) (int : Bool) (w : Word) (out : Nat) : Prop :=
  let x : ℝ := (if int then (w.toInt : ℝ) else wordVal w) * (2 : ℝ) ^ wScale c.w
  let v : ℝ := if wAct c.w = 0 then x else if wAct c.w = 1 then max x 0 else min (max x 0) 6
  (f.isInt = false → ∃ fl, rounded f c.rnd c.sat (!int && wAct c.w == 0 && w == 0x80000000) v out fl) ∧
  (f.isInt = true → ∃ z : ℤ, roundsInt c.rnd v z ∧
    let low : ℤ := -(2 ^ (f.width - 1))
    (out : ℤ) = (if int = false ∨ c.sat = true then max low (min (-low - 1) z) else z) % 2 ^ f.width)

/-- What a drain writes for an element of a quadruple, from its four parts (R169, R185). -/
def drainsComplex (c : MxCmd) (part : Nat → Word) (re im : Nat) : Prop :=
  ((∃ m, m < 4 ∧ wordNan (part m)) → re = 0x7FC00000 ∧ im = 0x7FC00000) ∧
  ((∀ m, m < 4 → expField (part m) ≠ 255) → ∃ z fl z' fl',
    rounded .fp32 c.rnd c.sat z ((wordVal (part 0) + wordVal (part 1)) * (2 : ℝ) ^ wScale c.w) re fl ∧
    rounded .fp32 c.rnd c.sat z' ((wordVal (part 2) + wordVal (part 3)) * (2 : ℝ) ^ wScale c.w) im fl')

/-! ## Header words (R15) -/

/-- Header word Hk by the places of its fields. -/
def headerWord (m : Msg) (k : Fin 8) : Nat :=
  match k with
  | 0 => m.dcore.toNat + 2 ^ 16 * m.dkey.toNat
  | 1 => m.dchip.toNat
  | 2 => m.score.toNat + 2 ^ 16 * m.sctx.toNat
  | 3 => m.schip.toNat
  | 4 => m.entry.toNat + 2 ^ 16 * m.prio.toNat + 2 ^ 22 * m.ans.toNat + 2 ^ 23 * m.rel.toNat + 2 ^ 24 * m.utag.toNat
  | 5 => m.pid.toNat + 2 ^ 16 * m.stag.toNat
  | 6 => m.seq.toNat
  | 7 => m.nw.toNat + 2 ^ 5 * m.kind.toNat + 2 ^ 9 * m.rcnt.toNat + 2 ^ 11 * m.fwd.toNat + 2 ^ 12 * m.div.toNat
      + 2 ^ 13 * m.sv.toNat

end Sys2Proof.Machine
end

