-- ==== Sys2Proof/Certificates/Slice0/Obligations.lean ====
section
/-! DEFINITION. Sys2Proof/Certificates/Slice0/Obligations.lean: the statements for the provers. Each docstring says which
sentence of the spec it formalises. -/

open Sys2Proof Sys2Proof.Machine

/-! ## Encoding and stepping -/

/-- DECODING IS RIGHT on words written out from the encodings of R281 to R285: NOP 0x0000; ADD g1, g2, g3 is
0x2000 + 64 + 16 + 3; the ANDI examples of R299; CLZ g1, g2 is 0x4800 + 64 + 16; FADD g1, g2, g3 after PGX 0xF080; END;
FENCE 1 after PGX 0xF200; VACQ after PGX 0xF100; STEP after PGX 0xF180; a PGX of page 5 is rejected. -/
def Obligations.DecodedWords : Prop :=
  decode [0x0000] = .ok (.nop, 1) ∧
  decode [0x2053] = .ok (.add (.g 1) (.g 2) (.g 3), 1) ∧
  decode [0xE01F, 0x6257] = .ok (.andi (.g 1) (.g 2) 255, 2) ∧
  decode [0xE7E0, 0x6250] = .ok (.andi (.g 1) (.g 2) (-256), 2) ∧
  decode [0x4850] = .ok (.clz (.g 1) (.g 2), 1) ∧
  decode [0xF080, 0x0053] = .ok (.fadd (.g 1) (.g 2) (.g 3) .rne, 2) ∧
  decode [0x0E00] = .ok (.endAct, 1) ∧
  decode [0xF200, 0x0401] = .ok (.fence1, 2) ∧
  decode [0xF100, 0x3800] = .ok (.vacq, 2) ∧
  decode [0xF180, 0x5000] = .ok (.step, 2) ∧
  decode [0xF280, 0x0000] = .error .badPage

/-- DECODE AND ENCODE AGREE: every well-formed instruction of the cores, at every operand value that its encoding
admits, is read back from its own parcels whatever parcels follow (R274 to R285, R289). The five rows of the table that
name one CSR are other names of CSRR and CSRW, with the same parcels. -/
def Obligations.DecodeInvertsEncode : Prop :=
  ∀ (i : Instr) (rest : List Parcel), i.wf = true →
    match i with
    | .pqdataRead d => encode i = encode (.csrr d 0x10D)
    | .pqdataWrite d => encode i = encode (.csrw d 0x10D)
    | .cycleRead d => encode i = encode (.csrr d 0x010)
    | .fqbaseWrite d => encode i = encode (.csrw d 0x120)
    | .fqheadWrite d => encode i = encode (.csrw d 0x121)
    | i => i.coded = true → decode (encode i ++ rest) = .ok (i, (encode i).length)

/-- A STEP RUNS THE DECODED INSTRUCTION: when the schedule (the model's own: assumption 2) offers a context its turn, one
cycle has passed (the model's own count: assumption 1), the budgets that ran out in it have been taken (R28), and what waits
for room has been tried (R239). A context has its turn when context 0 and every ready context before it in the cyclic order
that starts after the last issuer have none (R45). Where it has, on a cluster that is ON (R266): a pending STEP past a
SEAL blocks it (R371), and an activation that has ended ends with its last STEP (R28, R321); a stream of its own lets it wait
(R55), and so does a TSET whose words are still to be written (R389; in the turns of assumption 12); a PC beyond the code store
raises ILL (R277), and the
parcels at its PC that decode to an instruction of n parcels (R274) make the step exec of that instruction, with the cursor
on it and on its successor n parcels further. Parcels that decode to none raise ILL (R275): with the marker of R434 for a
prefix at parcel index 65,535 and for a fifth prefix in a row, else with the instruction parcel; the first prefix parcel is
INFO1. -/
def Obligations.StepRunsDecodedInstruction : Prop :=
  ∀ (s : State) (core c : Nat) (late : Bool) (r : List Turn),
    let turn : Turn := if late then .issueLate core c else .issue core c
    let u : State := { turnStart (some turn) s with turns := r }
    let last := (u.core core).last
    let place (x : Nat) : Nat := (x + 6 + 6 * last) % 7
    s.turns = turn :: r → core < 40960 → 1 ≤ c → c ≤ 7 →
    (hasTurn u core c = true ↔ mayIssue u core c = true ∧ serviceReady u core = false ∧
      ∀ x, 1 ≤ x → x ≤ 7 → place x < place c → isReady u core x = false) ∧
    (mayIssue u core c = true → (u.act core c).isSome ∧ (u.cluster (clusterOf core)).power = .on) ∧
    (hasTurn u core c = false → step s = .next u) ∧
    (∀ a, hasTurn u core c = true → u.act core c = some a → u.now < a.deadline →
      (u.stepBlocked core c = true → step s = .next (if a.ending then u.endGoOn core c else u.goOn core c)) ∧
      (u.stepBlocked core c = false → u.streaming core c = true ∨ u.recording core c = true → step s = .next u) ∧
      (u.stepBlocked core c = false → u.streaming core c = false → u.recording core c = false →
        (65536 ≤ a.pc → step s =
          .next ((u.setCur core c 65535 1 late).issued.trap core c ⟨1, 0x10000, 0⟩ 65535 65535 [])) ∧
        (∀ i n, a.pc < 65536 → decode (u.parcelsAt core a.pc) = .ok (i, n) →
          let v := u.setCur core c a.pc n late
          step s = exec i v ∧ v.cur.core = core ∧ v.cur.ctx = c ∧ v.cur.pc = a.pc ∧ v.cur.next = a.pc + n ∧
            v.cur.late = late) ∧
        (a.pc < 65536 →
          let ps := u.parcelsAt core a.pc
          let pre := ps.takeWhile fun p => decide (p.toNat / 2 ^ 13 = 7)
          let ill (x : Word) : Prop := step s = .next ((u.setCur core c a.pc 1 late).issued.trap core c
            ⟨1, x, (pre.headD 0).setWidth 32⟩ a.pc a.pc [])
          (ps.length ≤ 5 → pre.length = ps.length → ill 0x10000) ∧
          (ps.length = 6 → 5 ≤ pre.length → ill (0x20000 + (ps.getD 4 0).setWidth 32)) ∧
          (pre.length < 5 → pre.length < ps.length → (∀ i n, decode ps ≠ .ok (i, n)) →
            ill ((ps.getD pre.length 0).setWidth 32)))))

/-- THE MACHINE NEVER STOPS: whatever the state and the schedule (the model's own: assumption 2), a step answers a next state; no data, no encoding and
no event ends a run in a fault or a refusal. -/
def Obligations.EveryStepGoesOn : Prop := ∀ s : State, ∃ t : State, step s = .next t

/-! ## Registers, and what an issue does beside its instruction -/

/-- What a write of a register name does (R50, R57): g0 to g15 and lk take the word, zr discards it, a port pushes it toward
the neighbour after the loads and stores of the context have performed (R130), and at a package edge nothing is pushed and nothing
changes; every other register of every context, and every byte of memory, reads as before. Ports are popped in the order
a, b, e, d, the oldest word of a queue first; an instruction that names one port in several fields takes one word for each,
and every place goes back to the writer (R58, R59, R61). A pop changes no register and no byte of memory. -/
def Obligations.RegisterWrite : Prop :=
  (∀ (s : State) (r : Reg) (v : Word),
    let core := s.cur.core
    let c := s.cur.ctx
    let t := s.write r v
    (∀ n, r = .g n → (t.ctx core c).g[n] = v) ∧
    (r = .lk → (t.ctx core c).lk = v) ∧
    (∀ d, r = .port d →
      (neighbour core d = none → t = s) ∧
      (∀ k, neighbour core d = some k →
        t.portWords = s.portWords ++ [⟨8 * k + c, d.back, v⟩] ∧
        (t.ctx core c).outq[d.idx] = (s.ctx core c).outq[d.idx] + 1 ∧
        (∀ x : Dir, x ≠ d → (t.ctx core c).outq[x.idx] = (s.ctx core c).outq[x.idx]) ∧
        registersBut [] (performed s) t ∧ sameBytes (performed s) t)) ∧
    ((∀ d, r ≠ .port d) → registersBut [r] s t ∧ t.portWords = s.portWords ∧ (t.ctx core c).outq = (s.ctx core c).outq ∧ sameBytes s t) ∧
    (t.ctx core c).others = (s.ctx core c).others ∧
    otherContexts s t) ∧
  (∀ (s : State) (core c : Nat) (d : Dir) (w x y z : Word) (rest : List Word),
    (s.ctx core c).inq[d.idx] = w :: x :: y :: z :: rest →
    let o : Opd := .r (.port d)
    let pops (f : Form) (l left : List Word) (v : Vals → List Word) : Prop :=
      let q := s.takes core c f
      v q.1 = l ∧ (q.2.ctx core c).inq[d.idx] = left ∧ q.2.cur.popped = s.cur.popped ++ l ∧
      (∀ k, neighbour core d = some k → q.2.portPlaces = s.portPlaces ++ List.replicate l.length ⟨8 * k + c, d.back⟩) ∧
      (q.2.ctx core c).g = (s.ctx core c).g ∧ (q.2.ctx core c).lk = (s.ctx core c).lk ∧ sameBytes s q.2
    pops { a := o, b := o, e := o, d := o } [w, x, y, z] rest (fun v => [v.wa, v.wb, v.we, v.wd]) ∧
    pops { a := o, b := o, e := o } [w, x, y] (z :: rest) (fun v => [v.wa, v.wb, v.we]) ∧
    pops { a := o, b := o, d := o } [w, x, y] (z :: rest) (fun v => [v.wa, v.wb, v.wd]) ∧
    pops { b := o, e := o } [w, x] (y :: z :: rest) (fun v => [v.wb, v.we]) ∧
    pops { e := o, d := o } [w, x] (y :: z :: rest) (fun v => [v.we, v.wd]))

/-- The end of an issue (R45, R295): the activation's PC moves to the successor, or to where a jump has set it, and the core
knows which context issued last and when; nothing else of the machine changes. A seal ends the prefix (R33, R370): the
loads and stores of the context have performed, no prefix lasts after it, the log is no longer used, no register and no byte of
memory changes by it else, and the release of the send buffer (R30) hands its entries on in program order, what earlier
releases kept first, the messages under consecutive numbers of the core (R16), the commands into their engine queues, when
no vector memory instruction of the context must perform before them (R130, R139). -/
def Obligations.CommitAndSeal : Prop :=
  (∀ (s : State) (a : Act),
     let core := s.cur.core
     let c := s.cur.ctx
     let t := s.commit
     s.act core c = some a →
     t.core core = { s.core core with last := c, issuedAt := some s.now } ∧
     (∀ k, k ≠ core → t.core k = s.core k) ∧
     t.ctx core c = { s.ctx core c with act := some { a with pc := s.cur.next } } ∧
     (∀ k n, 8 * k + n ≠ 8 * core + c → t.ctx k n = s.ctx k n) ∧
     t = { s with cores := t.cores, ctxs := t.ctxs }) ∧
  (∀ (s : State) (core c : Nat),
     let t := s.sealPrefix core c
     let l := (s.ctx core c).handing ++ (s.ctx core c).waiting.flatten ++ (s.ctx core c).sbuf
     t.isOpen core c = false ∧ (∀ b, t.act core c = some b → b.log = []) ∧ sameBytes (s.flush core c) t ∧
     (let w := s.flush core c
      ∀ k n, (t.ctx k n).g = (w.ctx k n).g ∧ (t.ctx k n).lk = (w.ctx k n).lk ∧ (t.ctx k n).others = (s.ctx k n).others) ∧
     (t.ctx core c).sbuf = [] ∧
     (released (s.flush core c) core l → s.releaseWaits core c = false →
       (t.ctx core c).handing = [] ∧ (t.ctx core c).waiting = [] ∧ handedOn core l (s.flush core c) t))

/-! ## Rounding -/

/-- EVERY FINITE RESULT IS THE CORRECTLY ROUNDED ONE (R146, R152 to R154, R160 to R163, R168), with its flags, in each mode
0 to 4, stated on real numbers and on the values of the encodings: the sum, the difference, the product, the quotient, the
product with an addend, the square root, the reciprocal, the reciprocal square root; the conversions between
floating-point formats, from integers and to INT32; and the pairs of TWOSUM and TWOPROD, whose low part TWOSUM makes exact;
a low part that is zero is +0 (R168). An exact zero has the sign of R153. -/
def Obligations.FloatRounding : Prop :=
  ∀ (r : Rnd) (x y z : Word), r ≠ .sr →
    let finite (w : Word) : Prop := expField w ≠ 255
    let gives (zero : Bool) (v : ℝ) (q : FRes) : Prop := rounded .fp32 r false zero v q.1.toNat q.2
    let sx := x.getLsbD 31
    let sy := y.getLsbD 31
    let sz := z.getLsbD 31
    let sum (s t : Bool) : Bool := if s = t then s else r == .rdn
    (finite x → finite y →
      gives (sum sx sy) (wordVal x + wordVal y) (fAdd r x y) ∧
      gives (sum sx (!sy)) (wordVal x - wordVal y) (fSub r x y) ∧
      gives (sx != sy) (wordVal x * wordVal y) (fMul r x y) ∧
      (wordVal y ≠ 0 → gives (sx != sy) (wordVal x / wordVal y) (fDiv r x y)) ∧
      (finite z → gives (sum (sx != sy) sz) (wordVal x * wordVal y + wordVal z) (fFma r x y z)) ∧
      (let q := twoSum x y
       rounded .fp32 .rne false (sx && sy) (wordVal x + wordVal y) q.1.toNat q.2.2 ∧
       (finite q.1 → wordVal q.2.1 = wordVal x + wordVal y - wordVal q.1) ∧ (¬finite q.1 → q.2.1 = 0) ∧
       (wordVal x + wordVal y = wordVal q.1 → q.2.1 = 0)) ∧
      (let q := twoProd x y
       rounded .fp32 .rne false (sx != sy) (wordVal x * wordVal y) q.1.toNat q.2.2 ∧
       (finite q.1 → ∃ fl, rounded .fp32 .rne false false (wordVal x * wordVal y - wordVal q.1) q.2.1.toNat fl) ∧
       (¬finite q.1 → q.2.1 = 0) ∧ (wordVal x * wordVal y = wordVal q.1 → q.2.1 = 0))) ∧
    (finite x →
      (0 ≤ wordVal x → gives sx (Real.sqrt (wordVal x)) (fSqrt r x)) ∧
      (wordVal x ≠ 0 → gives sx (1 / wordVal x) (fRcp r x)) ∧
      (0 < wordVal x → gives false (1 / Real.sqrt (wordVal x)) (fRsq r x)) ∧
      ∃ n : ℤ, roundsInt r (wordVal x) n ∧
        (n < -2 ^ 31 → fToI r x = (0x80000000, flagNV)) ∧ (2 ^ 31 ≤ n → fToI r x = (0x7FFFFFFF, flagNV)) ∧
        (-2 ^ 31 ≤ n → n < 2 ^ 31 → (fToI r x).1 = wInt n ∧
          ((n : ℝ) = wordVal x → (fToI r x).2 = 0) ∧ ((n : ℝ) ≠ wordVal x → (fToI r x).2 = flagNX))) ∧
    gives false (x.toInt : ℝ) (iToF r x) ∧
    (∀ (src dst : Fmt) (sat : Bool) (bits : Nat), dst.isInt = false → bits < 2 ^ src.width →
      let q := convert src dst r sat bits 0
      (src.isInt = false → bits % 2 ^ (src.width - 1) ≤ src.maxBits →
        rounded dst r sat (decide (2 ^ (src.width - 1) ≤ bits)) (fmtVal src bits : ℚ) q.bits q.flags) ∧
      (src.isInt = true →
        let n : ℤ := if 2 ^ (src.width - 1) ≤ bits then (bits : ℤ) - 2 ^ src.width else bits
        rounded dst r sat false (n : ℝ) q.bits q.flags))

/-! ## Integer instructions -/

/-- The results of the integer instructions with two sources (R296, R348, R372, R411), as exact integers taken modulo
2^32: for every register name in d, a and b, ports among them. Each completes whenever nothing holds it back. -/
def Obligations.IntegerResults : Prop :=
  ∀ (d a b : Reg) (s : State),
    let f : Form := { a := .r a, b := .r b, dst := .r d }
    issuesPlain f s = true →
    let x := (operandsPlain f s).1.wa
    let y := (operandsPlain f s).1.wb
    let gives (i : Instr) (r : Word) : Prop := Gives i s ((operandsPlain f s).2.write d r).commit
    gives (.add d a b) (w32 (x.toNat + y.toNat)) ∧
    gives (.sub d a b) (wInt (x.toInt - y.toInt)) ∧
    gives (.and d a b) (w32 (x.toNat &&& y.toNat)) ∧
    gives (.or d a b) (w32 (x.toNat ||| y.toNat)) ∧
    gives (.xor d a b) (w32 (x.toNat ^^^ y.toNat)) ∧
    gives (.shl d a b) (w32 (x.toNat * 2 ^ (y.toNat % 32))) ∧
    gives (.shr d a b) (w32 (x.toNat / 2 ^ (y.toNat % 32))) ∧
    gives (.sra d a b) (wInt (x.toInt / 2 ^ (y.toNat % 32))) ∧
    gives (.mul d a b) (w32 (x.toNat * y.toNat)) ∧
    gives (.mulh d a b) (wInt (x.toInt * y.toInt / 2 ^ 32)) ∧
    gives (.mulhu d a b) (w32 (x.toNat * y.toNat / 2 ^ 32)) ∧
    gives (.min d a b) (wInt (min x.toInt y.toInt)) ∧
    gives (.max d a b) (wInt (max x.toInt y.toInt)) ∧
    gives (.minu d a b) (w32 (min x.toNat y.toNat)) ∧
    gives (.maxu d a b) (w32 (max x.toNat y.toNat)) ∧
    gives (.slt d a b) (if x.toInt < y.toInt then 1 else 0) ∧
    gives (.sltu d a b) (if x.toNat < y.toNat then 1 else 0) ∧
    gives (.seq d a b) (if x = y then 1 else 0)

/-- The results of the instructions with one source: CLZ (R313), POPC (R348), BFX (R305), and those with an immediate
(R298, R359, R381, R411). -/
def Obligations.ImmediateResults : Prop :=
  ∀ (d a : Reg) (imm : Int) (s : State),
    let f : Form := { a := .r a, dst := .r d }
    issuesPlain f s = true →
    let x := (operandsPlain f s).1.wa
    let gives (i : Instr) (r : Word) : Prop := Gives i s ((operandsPlain f s).2.write d r).commit
    (∃ n, n ≤ 32 ∧ gives (.clz d a) (w32 n) ∧ x.toNat < 2 ^ (32 - n) ∧ (n < 32 → 2 ^ (31 - n) ≤ x.toNat)) ∧
    gives (.popc d a) (w32 ((List.range 32).map fun i => (x.getLsbD i).toNat).sum) ∧
    (∀ pos len : Nat, 1 ≤ len → pos + len ≤ 32 →
      gives (.bfx d a (pos + 32 * (len - 1))) (w32 (x.toNat / 2 ^ pos % 2 ^ len))) ∧
    gives (.addi d a imm) (wInt (x.toInt + imm)) ∧
    gives (.andi d a imm) (x &&& wInt imm) ∧
    gives (.ori d a imm) (x ||| wInt imm) ∧
    gives (.xori d a imm) (x ^^^ wInt imm) ∧
    (∀ n : Nat, n < 32 →
      gives (.shli d a n) (w32 (x.toNat * 2 ^ n)) ∧ gives (.shri d a n) (w32 (x.toNat / 2 ^ n)) ∧
      gives (.srai d a n) (wInt (x.toInt / 2 ^ n))) ∧
    gives (.slti d a imm) (if x.toInt < imm then 1 else 0)

/-- The instructions that read d: SEL takes a when d is not 0 (R372, R373), BFI replaces len bits of d at pos (R305),
LDHI replaces bits [31:16] of d (R338). LDI writes its immediate (R338), GETH header word k of the trigger, with its fields
where R15 places them (R331), PGET
the address of a pointer or its stride extended with its sign (R360); PSET sets both, PSTR the stride, PADD adds to the
address (R360). -/
def Obligations.SelectAndMoveResults : Prop :=
  ∀ (d a b : Reg) (s : State),
    (let f : Form := { a := .r a, b := .r b, d := .r d, dst := .r d }
     issuesPlain f s = true →
     let v := (operandsPlain f s).1
     Gives (.sel d a b) s ((operandsPlain f s).2.write d (if v.wd.toNat = 0 then v.wb else v.wa)).commit) ∧
    (let f : Form := { a := .r a, d := .r d, dst := .r d }
     ∀ pos len : Nat, 1 ≤ len → pos + len ≤ 32 → issuesPlain f s = true →
     let x := (operandsPlain f s).1.wa.toNat
     let z := (operandsPlain f s).1.wd.toNat
     Gives (.bfi d a (pos + 32 * (len - 1))) s
       ((operandsPlain f s).2.write d
         (w32 (z / 2 ^ (pos + len) * 2 ^ (pos + len) + x % 2 ^ len * 2 ^ pos + z % 2 ^ pos))).commit) ∧
    (let f : Form := { d := .r d, dst := .r d }
     ∀ imm : Nat, imm < 65536 → issuesPlain f s = true →
     Gives (.ldhi d imm) s
       ((operandsPlain f s).2.write d (w32 (65536 * imm + (operandsPlain f s).1.wd.toNat % 65536))).commit) ∧
    (let f : Form := { dst := .r d }
     issuesPlain f s = true →
     let u := (operandsPlain f s).2
     (∀ imm, Gives (.ldi d imm) s (u.write d (wInt imm)).commit) ∧
     (∀ k, ∃ t, u.act u.cur.core u.cur.ctx = some t ∧ Gives (.geth d k) s (u.write d (w32 (headerWord t.trig k))).commit) ∧
     (∀ p : PtrNo, Gives (.pget d p false) s (u.write d (u.ctx u.cur.core u.cur.ctx).pa[p]).commit ∧
       Gives (.pget d p true) s (u.write d (wInt (u.ctx u.cur.core u.cur.ctx).ps[p].toInt)).commit)) ∧
    (let f : Form := { a := .r a, b := .r b }
     ∀ p, issuesPlain f s = true →
     let v := (operandsPlain f s).1
     Gives (.pset p a b) s ((operandsPlain f s).2.updCtx s.cur.core s.cur.ctx fun x =>
       { x with pa := x.pa.set p.val v.wa p.isLt, ps := x.ps.set p.val (BitVec.ofNat 16 v.wb.toNat) p.isLt }).commit) ∧
    (∀ p imm, issuesPlain {} s = true →
      Gives (.pstr p imm) s (s.updCtx s.cur.core s.cur.ctx fun x =>
        { x with ps := x.ps.set p.val (BitVec.ofInt 16 imm) p.isLt }).commit ∧
      Gives (.padd p imm) s (s.updCtx s.cur.core s.cur.ctx fun x =>
        { x with pa := x.pa.set p.val (wInt (x.pa[p].toInt + imm)) p.isLt }).commit)

/-- The instructions of the iterative unit (R48, R319): with the unit free each takes it, with its result, and commits its
issue; nothing is written before the unit ends. DIVU by 0 gives 0xFFFF_FFFF, REMU by 0 its dividend (R319, R348); the
results of the others are those of R162 and R163. -/
def Obligations.IterativeUnitStarts : Prop :=
  ∀ (d a b : Reg) (r : Rnd) (s : State),
    let starts (i : Instr) (u : State) (res : FRes) : Prop := Gives i s
      (u.updCore s.cur.core fun k => { k with iter := some ⟨s.cur.ctx, d, res.1, res.2, s.cur.pc⟩ }).commit
    (let f : Form := { a := .r a, b := .r b, dst := .r d }
     let u := (operandsPlain f s).2
     let x := (operandsPlain f s).1.wa
     let y := (operandsPlain f s).1.wb
     issuesPlain f s = true → ((entered (portSeal f s) s).core s.cur.core).iter = none →
     starts (.divu d a b) u (if y.toNat = 0 then 0xFFFFFFFF else w32 (x.toNat / y.toNat), 0) ∧
     starts (.remu d a b) u (if y.toNat = 0 then x else w32 (x.toNat % y.toNat), 0) ∧
     starts (.fdiv d a b r) u (fDiv r x y)) ∧
    (let f : Form := { a := .r a, dst := .r d }
     let u := (operandsPlain f s).2
     let x := (operandsPlain f s).1.wa
     issuesPlain f s = true → ((entered (portSeal f s) s).core s.cur.core).iter = none →
     starts (.fsqrt d a r) u (fSqrt r x) ∧ starts (.fexp2 d a r) u (fExp2 r x) ∧ starts (.flog2 d a r) u (fLog2 r x) ∧
     starts (.frcp d a r) u (fRcp r x) ∧ starts (.frsq d a r) u (fRsq r x))

/-! ## Floating point -/

/-- The scalar floating-point instructions outside the iterative unit (R323 to R328, R392): each writes the rounded
result, ORs its flags into FFLAGS (R159) and completes; none traps on a floating-point condition. -/
def Obligations.FloatResults : Prop :=
  ∀ (d a b : Reg) (r : Rnd) (sat : Bool) (s : State),
    (let f : Form := { a := .r a, b := .r b, dst := .r d }
     issuesPlain f s = true →
     let x := (operandsPlain f s).1.wa
     let y := (operandsPlain f s).1.wb
     let gives (i : Instr) (z : FRes) : Prop := Gives i s (((operandsPlain f s).2.write d z.1).addFlags z.2).commit
     gives (.fadd d a b r) (fAdd r x y) ∧ gives (.fsub d a b r) (fSub r x y) ∧ gives (.fmul d a b r) (fMul r x y) ∧
     gives (.fmin d a b) (fMinMax false x y) ∧ gives (.fmax d a b) (fMinMax true x y) ∧
     gives (.feq d a b) (fCompare .eq x y) ∧ gives (.flt d a b) (fCompare .lt x y) ∧
     gives (.fle d a b) (fCompare .le x y)) ∧
    (let f : Form := { a := .r a, b := .r b, d := .r d, dst := .r d }
     issuesPlain f s = true →
     let v := (operandsPlain f s).1
     let z := fFma r v.wa v.wb v.wd
     Gives (.ffma d a b r) s (((operandsPlain f s).2.write d z.1).addFlags z.2).commit) ∧
    (let f : Form := { a := .r a, dst := .r d }
     issuesPlain f s = true →
     let x := (operandsPlain f s).1.wa
     let u := (operandsPlain f s).2
     let gives (i : Instr) (z : FRes) : Prop := Gives i s ((u.write d z.1).addFlags z.2).commit
     gives (.fclass d a) (fClass x, 0) ∧ gives (.ftoi d a r sat) (fToI r x) ∧ gives (.itof d a r sat) (iToF r x) ∧
     (∀ dst src : Fmt,
       let q := u.convertDraw (clusterOf s.cur.core) src dst r sat (x.toNat % 2 ^ src.width)
       Gives (.fcvt d a r sat dst src) s ((q.2.write d (placeBits dst q.1.bits)).addFlags q.1.flags).commit)) ∧
    (∀ p : Pair, let f : Form := { a := .r a, b := .r b, dst := .p p }
     issuesPlain f s = true →
     let x := (operandsPlain f s).1.wa
     let y := (operandsPlain f s).1.wb
     let gives (i : Instr) (z : Word × Word × Flags) : Prop :=
       Gives i s (((operandsPlain f s).2.writePair p z.1 z.2.1).addFlags z.2.2).commit
     gives (.twosum p a b) (twoSum x y) ∧ gives (.twoprod p a b) (twoProd x y))

/-- FCLASS (R326): the word that it writes has exactly one bit of [8:0] set, by the sign, the exponent field and the
fraction field of its source, and it sets no flag. -/
def Obligations.ClassOfAWord : Prop :=
  ∀ (d a : Reg) (s : State),
    let f : Form := { a := .r a, dst := .r d }
    let x := (operandsPlain f s).1.wa
    let u := (operandsPlain f s).2
    let neg := x.getLsbD 31
    let e := expField x
    let m := fracField x
    let bit : Nat :=
      if e = 255 then (if m = 0 then (if neg then 0 else 7) else 8)
      else if e = 0 then (if m = 0 then (if neg then 3 else 4) else (if neg then 2 else 5))
      else (if neg then 1 else 6)
    issuesPlain f s = true →
    ∃ t : State, Gives (.fclass d a) s t ∧ t = ((u.write d (w32 (2 ^ bit))).addFlags 0).commit ∧
      ((∀ k, d ≠ .port k) → (t.ctx s.cur.core s.cur.ctx).fflags = (s.ctx s.cur.core s.cur.ctx).fflags)

/-- NaN operands, infinities and zeros, minimum and maximum, and comparisons. A NaN operand gives the canonical NaN 0x7FC0_0000
(R148) in the arithmetic instructions and in FMIN and FMAX, without a flag (R162, R164); ∞ - ∞, 0 × ∞, 0 / 0, ∞ / ∞ and the root
of a value below -0 give it with NV, the invalid product of FFMA whatever its addend (R162); the infinities, the quotient by zero
with DZ, and the table of R163 for FEXP2, FLOG2, FRCP and FRSQ. FTOI of a NaN is 0 and of an infinity the end of the range, each
with NV (R161). FMIN and FMAX give the smaller and the larger operand, +0 above -0; a comparison gives 1 when the relation of the
values holds and else 0, where FLT and FLE set NV for a NaN and FEQ sets no flag (R164, R324, R325). FEXP2 and FLOG2 are exact on
integers and on powers of two, set NX on every other finite operand, FEXP2 overflows from 128 on (R163), and their results lie
between those of the powers of two around. -/
def Obligations.NanOperands : Prop :=
  ∀ (r : Rnd) (x y z : Word),
    let nan : Word := 0x7FC00000
    let neg (w : Word) : Bool := w.getLsbD 31
    let inf (w : Word) : Prop := expField w = 255 ∧ fracField w = 0
    let finite (w : Word) : Prop := expField w ≠ 255
    let zero (w : Word) : Prop := expField w = 0 ∧ fracField w = 0
    let infinity (b : Bool) : Word := if b then 0xFF800000 else 0x7F800000
    let nought (b : Bool) : Word := if b then 0x80000000 else 0
    let invalid : FRes := (nan, flagNV)
    (wordNan x ∨ wordNan y →
      fAdd r x y = (nan, 0) ∧ fSub r x y = (nan, 0) ∧ fMul r x y = (nan, 0) ∧ fDiv r x y = (nan, 0) ∧
      fMinMax false x y = (nan, 0) ∧ fMinMax true x y = (nan, 0) ∧
      fCompare .eq x y = (0, 0) ∧ fCompare .lt x y = (0, flagNV) ∧ fCompare .le x y = (0, flagNV)) ∧
    (wordNan x → fSqrt r x = (nan, 0) ∧ fRcp r x = (nan, 0) ∧ fRsq r x = (nan, 0) ∧ fExp2 r x = (nan, 0) ∧
      fLog2 r x = (nan, 0) ∧ fToI r x = (0, flagNV)) ∧
    (inf x →
      (finite y → fAdd r x y = (x, 0) ∧ fAdd r y x = (x, 0) ∧ fSub r x y = (x, 0) ∧ fSub r y x = (infinity !(neg x), 0) ∧
        fDiv r x y = (infinity (neg x != neg y), 0) ∧ fDiv r y x = (nought (neg x != neg y), 0) ∧
        (zero y → fMul r x y = invalid ∧ fMul r y x = invalid ∧ fFma r x y z = invalid ∧ fFma r y x z = invalid) ∧
        (¬zero y → fMul r x y = (infinity (neg x != neg y), 0) ∧ fMul r y x = (infinity (neg x != neg y), 0))) ∧
      (inf y → fMul r x y = (infinity (neg x != neg y), 0) ∧ fDiv r x y = invalid ∧
        fAdd r x y = (if neg x = neg y then (x, 0) else invalid) ∧ fSub r x y = (if neg x = neg y then invalid else (x, 0))) ∧
      (inf y ∨ (finite y ∧ ¬zero y) →
        let p := neg x != neg y
        (finite z → fFma r x y z = (infinity p, 0) ∧ fFma r y x z = (infinity p, 0)) ∧
        (inf z → fFma r x y z = (if neg z = p then (z, 0) else invalid) ∧ fFma r y x z = (if neg z = p then (z, 0) else invalid)) ∧
        (wordNan z → fFma r x y z = (nan, 0))) ∧
      fSqrt r x = (if neg x then invalid else (x, 0)) ∧ fRcp r x = (nought (neg x), 0) ∧
      fRsq r x = (if neg x then invalid else (0, 0)) ∧ fExp2 r x = (if neg x then 0 else x, 0) ∧
      fLog2 r x = (if neg x then invalid else (x, 0)) ∧
      fToI r x = (if neg x then 0x80000000 else 0x7FFFFFFF, flagNV)) ∧
    (finite x → finite y → (inf z → fFma r x y z = (z, 0)) ∧ (wordNan z → fFma r x y z = (nan, 0))) ∧
    (wordNan x → fFma r x y z = (nan, 0) ∧ fFma r y x z = (nan, 0)) ∧
    (zero x → (zero y → fDiv r x y = invalid) ∧ (finite y → ¬zero y → fDiv r y x = (infinity (neg x != neg y), flagDZ)) ∧
      fSqrt r x = (x, 0) ∧ fRcp r x = (infinity (neg x), flagDZ) ∧ fRsq r x = (infinity (neg x), flagDZ) ∧
      fExp2 r x = (0x3F800000, 0) ∧ fLog2 r x = (0xFF800000, flagDZ)) ∧
    (finite x → ¬zero x → neg x = true → fSqrt r x = invalid ∧ fRsq r x = invalid ∧ fLog2 r x = invalid) ∧
    (¬wordNan x → ¬wordNan y →
      let below (u v : Word) : Prop := u = 0xFF800000 ∨ v = 0x7F800000 ∨ (finite u ∧ finite v ∧ wordVal u ≤ wordVal v)
      let same : Prop := x = y ∨ (finite x ∧ finite y ∧ wordVal x = wordVal y)
      let cmp (c : Cond) (p : Prop) : Prop := (p → fCompare c x y = (1, 0)) ∧ (¬p → fCompare c x y = (0, 0))
      (∃ m, fMinMax false x y = (m, 0) ∧ (m = x ∨ m = y) ∧ below m x ∧ below m y ∧
        (zero x → zero y → m = nought (neg x || neg y))) ∧
      (∃ m, fMinMax true x y = (m, 0) ∧ (m = x ∨ m = y) ∧ below x m ∧ below y m ∧
        (zero x → zero y → m = nought (neg x && neg y))) ∧
      cmp .eq same ∧ cmp .lt (below x y ∧ ¬same) ∧ cmp .le (below x y)) ∧
    (r ≠ .sr → finite x →
      let q := fExp2 r x
      let l := fLog2 r x
      (∀ n : ℤ, wordVal x = n → -149 ≤ n → n ≤ 127 → wordVal q.1 = (2 : ℝ) ^ n ∧ q.2 = 0) ∧
      ((∀ n : ℤ, wordVal x = n → n < -149 ∨ 127 < n) → q.2 &&& flagNX = flagNX) ∧
      (128 ≤ wordVal x → q = (w32 (overflowed .fp32 r false false), flagOF ||| flagNX)) ∧
      (∀ n : ℤ, -126 ≤ n → n ≤ 126 → (n : ℝ) ≤ wordVal x → wordVal x ≤ n + 1 →
        (2 : ℝ) ^ n ≤ wordVal q.1 ∧ wordVal q.1 ≤ (2 : ℝ) ^ (n + 1)) ∧
      (0 < wordVal x → ∀ n : ℤ,
        (wordVal x = (2 : ℝ) ^ n → wordVal l.1 = n ∧ l.2 = 0 ∧ (n = 0 → l.1 = 0)) ∧
        ((2 : ℝ) ^ n < wordVal x → wordVal x < (2 : ℝ) ^ (n + 1) →
          (n : ℝ) ≤ wordVal l.1 ∧ wordVal l.1 ≤ n + 1 ∧ l.2 &&& flagNX = flagNX)))

/-! ## Branches -/

/-- The branches of R308: target = PC + offset; CALL leaves the index of its successor in lk; BZ and BNZ are taken on the
value of d, zero or nonzero; a taken branch whose target is below 0 or above 65,535 raises ILL; one not taken goes to
its successor. -/
def Obligations.BranchRules : Prop :=
  ∀ (d : Reg) (off : Int) (s : State),
    let target : Int := (s.cur.pc : Int) + off
    let inside := 0 ≤ target ∧ target ≤ 65535
    let ill (u : State) : State := u.issued.trap s.cur.core s.cur.ctx
      ⟨1, s.cur.ip.setWidth 32, s.cur.first.setWidth 32⟩ s.cur.pc s.cur.pc u.cur.popped
    (issuesPlain {} s = true →
      (inside → Gives (.br off) s (s.jump target.toNat).commit) ∧ (¬inside → Gives (.br off) s (ill s))) ∧
    (issuesPlain { dst := .r .lk } s = true →
      (inside → Gives (.call off) s ((s.write .lk (w32 s.cur.next)).jump target.toNat).commit) ∧
      (¬inside → Gives (.call off) s (ill s))) ∧
    (let f : Form := { d := .r d }
     let x := (operandsPlain f s).1.wd
     let u := (operandsPlain f s).2
     issuesPlain f s = true →
      (x = 0 → inside → Gives (.bz d off) s (u.jump target.toNat).commit) ∧
      (x = 0 → ¬inside → Gives (.bz d off) s (ill u)) ∧
      (x ≠ 0 → Gives (.bz d off) s u.commit) ∧
      (x ≠ 0 → inside → Gives (.bnz d off) s (u.jump target.toNat).commit) ∧
      (x ≠ 0 → ¬inside → Gives (.bnz d off) s (ill u)) ∧
      (x = 0 → Gives (.bnz d off) s u.commit))

/-- The jumps through a register (R336): the target is in bits [15:0], bits [31:16] other than 0 raise ILL, and JALR leaves
the index of its successor in lk, written after the target is read. NOP changes nothing but the PC (R358). -/
def Obligations.JumpRules : Prop :=
  ∀ (a : Reg) (s : State),
    let ill (u : State) : State := u.issued.trap s.cur.core s.cur.ctx
      ⟨1, s.cur.ip.setWidth 32, s.cur.first.setWidth 32⟩ s.cur.pc s.cur.pc u.cur.popped
    (issuesPlain {} s = true → Gives .nop s s.commit) ∧
    (let f : Form := { a := .r a }
     let x := (operandsPlain f s).1.wa
     let u := (operandsPlain f s).2
     issuesPlain f s = true →
      (x.toNat < 65536 → Gives (.jr a) s (u.jump x.toNat).commit) ∧ (65536 ≤ x.toNat → Gives (.jr a) s (ill u))) ∧
    (let f : Form := { a := .r a, dst := .r .lk }
     let x := (operandsPlain f s).1.wa
     let u := (operandsPlain f s).2
     issuesPlain f s = true →
      (x.toNat < 65536 → Gives (.jalr a) s ((u.write .lk (w32 s.cur.next)).jump x.toNat).commit) ∧
      (65536 ≤ x.toNat → Gives (.jalr a) s (ill u)))

/-! ## Local memory -/

/-- The scalar loads (R339 to R342): from an aligned address in TCM or the scratchpad, in a line that is not poisoned and
a word without an error, each writes the little-endian bytes at its effective address, extended with the sign or with
zeros, and then advances the pointer when P = 1. LDS waits while its line is empty (R29, R341: nothing happens but the
seal of a port that it names), and is an acquire (R130); LDD makes two word
accesses (R125) and writes the lower word to the even register. Each word access comes after the context's own stores to
its word (R127). The load has not been made ahead of its instruction (R129: what it reads then is in ContextEvents). In a turn that
defers it (the model's own: assumption 12) a load of the scratchpad into g0 to g15 or lk, LDS apart, performs after its issue
(R129): it joins the loads of its context with the word as it stands, and each of the two accesses of LDD does (R125). -/
def Obligations.LoadResults : Prop :=
  ∀ (d : Reg) (p : Pair) (m : MemOp) (s : State),
    let core := s.cur.core
    let c := s.cur.ctx
    (let f : Form := { dst := .r d }
     issuesPlain f s = true →
     let u := (operandsPlain f s).2
     let a (n : Nat) := (u.ea m n).toNat
     let late (n : Nat) : Prop := s.cur.late = true ∧ 0x100000 ≤ a n ∧ ((∃ k, d = .g k) ∨ d = .lk)
     let loads (i : Instr) (n : Nat) (w : State) (r : (Nat → Byte) → Word) : Prop :=
       let v := settledFor w core c (a n)
       unviewed w core c (a n) = true → loadable v core (a n) n = true →
       Gives i s ((v.write d (r fun k => v.localByte core (a n + k))).post m).commit
     let defers (i : Instr) (n : Nat) (part : LoadPart) : Prop :=
       let v := settledFor u core c (a n)
       let word := a n - a n % 4
       late n → unviewed u core c (a n) = true → loadable v core (a n) n = true →
       Gives i s ((v.updCtx core c fun x => { x with
         lateLoads := x.lateLoads ++ [⟨word, a n % 4, part, d, v.localWord core word⟩] }).post m).commit
     let word (b : Nat → Byte) : Word := b 3 ++ b 2 ++ b 1 ++ b 0
     (¬late 4 → loads (.ldw d m) 4 u word) ∧ defers (.ldw d m) 4 .word ∧
     (u.isFull core (a 4) = true → loads (.lds d m) 4 (u.acquire core c) word) ∧
     (u.isFull core (a 4) = false → a 4 % 4 = 0 → localOk (a 4) 4 = true → Gives (.lds d m) s (entered (portSeal f s) s)) ∧
     (¬late 2 → loads (.ldh d m) 2 u (fun b => wInt (b 1 ++ b 0).toInt)) ∧ defers (.ldh d m) 2 .half ∧
     (¬late 2 → loads (.ldhu d m) 2 u (fun b => w32 (b 1 ++ b 0).toNat)) ∧ defers (.ldhu d m) 2 .halfU ∧
     (¬late 1 → loads (.ldb d m) 1 u (fun b => wInt (b 0).toInt)) ∧ defers (.ldb d m) 1 .byte ∧
     (¬late 1 → loads (.ldbu d m) 1 u (fun b => w32 (b 0).toNat)) ∧ defers (.ldbu d m) 1 .byteU) ∧
    (let f : Form := { dst := .p p }
     issuesPlain f s = true →
     let a := (s.ea m 8).toNat
     let v := settledFor s core c a
     let w := settledFor v core c (a + 4)
     a % 8 = 0 → localOk a 8 = true → unviewed s core c a = true → unviewed s core c (a + 4) = true →
     loadable v core a 4 = true → loadable w core (a + 4) 4 = true →
     (s.cur.late = false ∨ a < 0x100000 ∨ p = .zr →
       Gives (.ldd p m) s ((w.writePair p (v.localWord core a) (w.localWord core (a + 4))).post m).commit) ∧
     (∀ k : Fin 8, s.cur.late = true → 0x100000 ≤ a → p = .even k → loadable (settledFor s core c (a + 4)) core (a + 4) 4 = true →
       let joins (x : State) (b : Nat) (r : Fin 16) : State := x.updCtx core c fun y => { y with
         lateLoads := y.lateLoads ++ [⟨b, 0, .word, .g r, x.localWord core b⟩] }
       let x := settledFor (joins v a ⟨2 * k.val, by omega⟩) core c (a + 4)
       Gives (.ldd p m) s ((joins x (a + 4) ⟨2 * k.val + 1, by omega⟩).post m).commit))

/-- The scalar stores (R384 to R386): an aligned store to TCM or the scratchpad writes the low bytes of d, little-endian,
at its effective address and no other byte of any memory, advances the pointer when P = 1, and changes no other
register. The context's earlier loads and stores of the word perform before it (R127). When the undo log has no room the prefix ends
first (R33). The word of a store below a word holds no uncorrectable error (R75). The store performs as it issues; one that
performs later (R129) is in ContextEvents. -/
def Obligations.StoreResults : Prop :=
  ∀ (d : Reg) (p : Pair) (m : MemOp) (s : State),
    let core := s.cur.core
    let c := s.cur.ctx
    let stores (i : Instr) (n : Nat) (w : State) (b : Nat → Byte) : Prop :=
      let a := (s.ea m n).toNat
      ∃ t : State, Gives i s t ∧ (∀ k, k < n → (t.mem (placeOf core a)).byte (offsetOf a + k) = b k) ∧
        bytesBut (placeOf core a) (offsetOf a) n w t ∧ registersBut [] w t ∧ otherContexts s t ∧
        (t.ctx core c).pa = (if m.post then ((s.ctx core c).bump m.p).pa else (s.ctx core c).pa) ∧
        (t.ctx core c).ps = (s.ctx core c).ps ∧ (t.ctx core c).fflags = (s.ctx core c).fflags ∧ pcNext s t
    s.cur.late = false →
    (∀ n ∈ [4, 2, 1],
      let a := (s.ea m n).toNat
      let f : Form := { d := .r d }
      let must := s.isOpen core c && (s.wordsFull core c [a - a % 4] || f.ports)
      let w := settledFor (operands must f s).2 core c a
      let v := (operands must f s).1.wd
      issues must f s = true → a % n = 0 → localOk a n = true →
      (n = 4 ∨ (w.mem (placeOf core a)).err (offsetOf (a - a % 4)) ≠ some .uncorrectable) →
      stores (if n = 4 then .stw d m else if n = 2 then .sth d m else .stb d m) n w fun k => v.extractLsb' (8 * k) 8) ∧
    (let a := (s.ea m 8).toNat
     let f : Form := { d := .p p }
     let must := s.isOpen core c && s.wordsFull core c [a, a + 4]
     let w := settledFor (settledFor (entered must s) core c a) core c (a + 4)
     issues must f s = true → a % 8 = 0 → localOk a 8 = true →
     let v := s.pairVal core c p
     stores (.std p m) 8 w fun k => if k < 4 then v.1.extractLsb' (8 * k) 8 else v.2.extractLsb' (8 * (k - 4)) 8)

/-- The checks of a local access (R53, R71, R232, R234): a misaligned effective address raises ALIGN, an aligned one
outside TCM and scratchpad raises LADDR, each with the address in INFO0, before anything else happens: nothing is
popped, nothing is stored, and the pointer stays; a closed link of a port that the instruction names raises PORT with the
port's number after them (R60); the activation is still restartable then (the model's reading: assumption 53). A scalar load
from a poisoned line (R71) raises UE before the word is read (R340), and one of an uncorrectable word (R74) after the word's check,
each with the address of the word in INFO0 (the model's reading: assumption 20). The traps of a send (R375, R234): bit 31 of the handler word raises ILL; an answer's
activation that sends a call raises ANS with the handler word in INFO0; an endpoint that does not resolve raises DEAD with
its two words, the tables having been read (R76, R93). The handler word is in a register, so that nothing is popped. -/
def Obligations.IssueTraps : Prop :=
  (∀ (d : Reg) (p : Pair) (m : MemOp) (s : State),
     let core := s.cur.core
     let c := s.cur.ctx
     let traps (f : Form) (i : Instr) (n : Nat) : Prop := attends f s = true →
       let a := (s.ea m n).toNat
       let raised (cause : Nat) (x : Word) : State :=
         s.issued.trap core c ⟨cause, x, 0⟩ s.cur.pc s.cur.pc s.cur.popped
       (a % n ≠ 0 → Gives i s (raised 4 (s.ea m n))) ∧
       (a % n = 0 → localOk a n = false → Gives i s (raised 3 (s.ea m n))) ∧
       (∀ k, d = .port k → f.ports = true → a % n = 0 → localOk a n = true → s.linkClosed core k = true →
         f.dst = .r d ∨ s.inCount core c k = 0 → Gives i s (raised 5 (w32 (Reg.port k).number)))
     (∀ i ∈ [Instr.ldw d m, .lds d m], traps { dst := .r d } i 4) ∧ (∀ i ∈ [Instr.ldh d m, .ldhu d m], traps { dst := .r d } i 2) ∧
     (∀ i ∈ [Instr.ldb d m, .ldbu d m], traps { dst := .r d } i 1) ∧ traps { dst := .p p } (.ldd p m) 8 ∧
     traps { d := .r d } (.stw d m) 4 ∧ traps { d := .r d } (.sth d m) 2 ∧ traps { d := .r d } (.stb d m) 1 ∧
     traps { d := .p p } (.std p m) 8 ∧ (∀ i ∈ [Instr.setf m, .sete m, .clrp m], traps {} i 128) ∧
     (∀ i ∈ [Instr.tstf d m, .tstp d m], traps { dst := .r d } i 128) ∧
     (let loads (f : Form) (i : Instr) (n : Nat) (acq : Bool) : Prop :=
        let u := (operandsPlain f s).2
        let a := (u.ea m n).toNat
        let w := if acq then u.acquire core c else u
        let v := settledFor w core c a
        issuesPlain f s = true → a % n = 0 → localOk a n = true → unviewed w core c a = true →
        (acq = true → u.isFull core a = true) →
        let raised (x : State) : State := x.issued.trap core c ⟨8, w32 (a - a % 4), 0⟩ s.cur.pc s.cur.pc s.cur.popped
        (v.poisoned core a = true → Gives i s (raised v)) ∧
        (v.poisoned core a = false → (v.mem (placeOf core a)).err (offsetOf (a - a % 4)) = some .uncorrectable →
          Gives i s (raised (v.readLocal core c unitContext a).1))
      let f : Form := { dst := .r d }
      loads f (.ldw d m) 4 false ∧ loads f (.lds d m) 4 true ∧ loads f (.ldh d m) 2 false ∧ loads f (.ldhu d m) 2 false ∧
      loads f (.ldb d m) 1 false ∧ loads f (.ldbu d m) 1 false ∧ loads { dst := .p p } (.ldd p m) 8 false)) ∧
  (∀ (d : Pair) (a : Reg) (n : Fin 9) (s : State),
     let f : Form := { a := .r a, d := .p d, also := payRegs n }
     let hw := s.regVal s.cur.core s.cur.ctx a
     let e := s.pairVal s.cur.core s.cur.ctx d
     let raised (t : TrapInfo) : State := s.issued.trap s.cur.core s.cur.ctx t s.cur.pc s.cur.pc s.cur.popped
     attends f s = true → a.notPort = true →
     (hw.getLsbD 31 = true → Gives (.send d a n) s (raised ⟨1, s.cur.ip.setWidth 32, s.cur.first.setWidth 32⟩)) ∧
     (hw.getLsbD 31 = false → e.1.toNat < 65536 → e.2.toNat < 2 ^ 22 →
       (s.fromAnswer = true → hw.getLsbD 22 = false → Gives (.send d a n) s (raised ⟨13, hw, 0⟩)) ∧
       ((s.fromAnswer = false ∨ hw.getLsbD 22 = true) → (s.endpoint e).1 = .dead →
         Gives (.send d a n) s ((s.noteEndpoint e).issued.trap s.cur.core s.cur.ctx ⟨17, e.1, e.2⟩ s.cur.pc s.cur.pc s.cur.popped))))

/-- The line instructions (R311, R378): SETF, SETE and CLRP change one bit of the sideband of the line at their address and
nothing else of any memory; SETF and SETE are releases, before which the loads and stores of the context perform (R130); the others
come after its scalar stores to the TCM when the line lies there (R128); TSTF and TSTP write that bit to d. -/
def Obligations.LineInstructions : Prop :=
  ∀ (d : Reg) (m : MemOp) (s : State),
    let core := s.cur.core
    let c := s.cur.ctx
    let a := (s.ea m 128).toNat
    a % 128 = 0 → localOk a 128 = true →
    (let must := s.isOpen core c && s.logFull core c 1
     let changes (i : Instr) (w : State) (g : Side → Side) : Prop := ∃ t : State, Gives i s t ∧ pcNext s t ∧ registersBut [] w t ∧
       sameBytes w t ∧ (t.mem (placeOf core a)).line (offsetOf a / 128) = g (w.localSide core a) ∧
       (∀ q l, ¬(q = placeOf core a ∧ l = offsetOf a / 128) → (t.mem q).line l = (w.mem q).line l) ∧
       (t.ctx core c).pa = (if m.post then ((s.ctx core c).bump m.p).pa else (s.ctx core c).pa)
     issues must {} s = true →
     changes (.clrp m) ((entered must s).awaitTcm core c a) (fun x => { x with p := false }) ∧
     ((entered must s).releaseWaits core c = false →
       changes (.setf m) ((entered must s).flush core c) (fun x => { x with fe := true }) ∧
       changes (.sete m) ((entered must s).flush core c) fun x => { x with fe := false })) ∧
    (let f : Form := { dst := .r d }
     let u := (operandsPlain f s).2.awaitTcm core c a
     issuesPlain f s = true →
     Gives (.tstf d m) s ((u.write d (if (u.localSide core a).fe then 1 else 0)).post m).commit ∧
     Gives (.tstp d m) s ((u.write d (if (u.localSide core a).p then 1 else 0)).post m).commit)

/-- The stream instructions (R55, R368, R380): a count of 0 completes at once and changes nothing but the PC; with any
other count, and the core's stream unit free, the instruction begins a stream of that many elements from the first one, of
its own operation, pointers and type, and the PC stays until the last element. -/
def Obligations.StreamsBegin : Prop :=
  ∀ (d a b : PtrNo) (e : Reg) (ty : StreamTy) (s : State),
    let f : Form := { e := .r e }
    let u := (operandsPlain f s).2
    let n := (operandsPlain f s).1.we
    let begins (i : Instr) (op : StreamOp) (second : PtrNo → Prop) (type : StreamTy → Prop) : Prop :=
      (n = 0 → Gives i s u.commit) ∧
      (n ≠ 0 → ∃ t r, Gives i s t ∧ (t.core s.cur.core).stream = some r ∧ r.ctx = s.cur.ctx ∧ r.i = 0 ∧ r.n = n.toNat ∧
        r.op = op ∧ r.d = d ∧ r.a = a ∧ second r.b ∧ type r.ty ∧ r.flags = 0 ∧ r.next = s.cur.next ∧
        (t.act s.cur.core s.cur.ctx).map Act.pc = (s.act s.cur.core s.cur.ctx).map Act.pc ∧
        (t.ctx s.cur.core s.cur.ctx).pa = (s.ctx s.cur.core s.cur.ctx).pa ∧
        registersBut [] (afterStores (portSeal f s) f s) t ∧ sameBytes (afterStores (portSeal f s) f s) t)
    issuesPlain f s = true → ((entered (portSeal f s) s).core s.cur.core).stream = none →
    begins (.sadd d a b e ty) .sadd (· = b) (· = ty) ∧ begins (.smul d a b e ty) .smul (· = b) (· = ty) ∧
    begins (.sfma d a b e ty) .sfma (· = b) (· = ty) ∧ begins (.scpy d a e) .scpy (fun _ => True) fun _ => True

/-! ## Messages -/

/-- SEND, SVSEND, REPLY and SENDM (R366, R374 to R376): with a place in the send buffer, a handler word whose bit 31 is 0
and an endpoint that resolves, each puts one entry into the send buffer and completes: the payload is g8 to g(8 + n - 1)
of the cycle of issue, KIND is 0, or 4 for SVSEND, and H4 comes from the handler word; the table words that the
resolution reads are checked (R76, R93). From an activation that an answer
triggered, SEND, SENDM and SVSEND need bit 22 of the handler word (R38); REPLY sets ANS. -/
def Obligations.SendsEnterTheBuffer : Prop :=
  ∀ (d : Pair) (a : Reg) (n : Fin 9) (s : State),
    let pay (u : State) : List Word := (List.range n.val).map fun i => (u.ctx s.cur.core s.cur.ctx).g[(8 + i) % 16]!
    let puts (i : Instr) (u : State) (e : Word × Word) (m : Msg) : Prop :=
      Gives i s ((u.noteEndpoint e).buffer (.msg m)).commit
    (let f : Form := { a := .r a, d := .p d, also := payRegs n }
     let u := (sendOperands f s).2
     let hw := (sendOperands f s).1.wa
     let e := s.pairVal s.cur.core s.cur.ctx d
     sends f s = true → hw.getLsbD 31 = false → (s.fromAnswer = true → hw.getLsbD 22 = true) →
     (reachable f s e →
       (∃ m, puts (.send d a n) u e m ∧ sentBy u m 0 (pay u) ∧ carriesHandler m hw ∧ m.ans = hw.getLsbD 22 ∧ addressed u m e) ∧
       (s.cur.ctx = 7 → e.1.toNat ≠ 65535 →
        ∃ m, puts (.svsend d a n) u e m ∧ sentBy u m 4 (pay u) ∧ carriesHandler m hw ∧ m.ans = hw.getLsbD 22 ∧
          addressed u m e)) ∧
     (e.1.toNat < 4096 → e.2 = 0 →
       (∀ x ∈ checksIn f s, x.groupValid (x.core s.cur.core).pid e.1.toNat = true) →
       ∃ m, Gives (.sendm d a n) s (u.buffer (.multicast e.1.toNat m)).commit ∧ sentBy u m 0 (pay u) ∧
         carriesHandler m hw ∧ m.ans = hw.getLsbD 22)) ∧
    (let f : Form := { a := .r a, also := payRegs n }
     let u := (sendOperands f s).2
     let hw := (sendOperands f s).1.wa
     ∀ t, s.act s.cur.core s.cur.ctx = some t → t.trig.score ≠ 0xFFFF →
     let e : Word × Word := (t.trig.score.setWidth 32, t.trig.schip.setWidth 32)
     sends f s = true → hw.getLsbD 31 = false → reachable f s e →
     ∃ m, puts (.reply a n) u e m ∧ sentBy u m 0 (pay u) ∧ carriesHandler m hw ∧ m.ans = true ∧ addressed u m e)


/-- LAUNCH (R218), TDEC (R388) and the owner atomics (R300 to R302): each puts one message into the send buffer: KIND 5
with the record's VA and the reply handler word, KIND 3 with the address and the decrement, KIND 2 with the opcode,
address, v, c and the reply handler word; 0x8000_0000 stands for no reply. -/
def Obligations.CommandMessages : Prop :=
  ∀ (d q : Pair) (a b e : Reg) (s : State),
    let puts (i : Instr) (u : State) (e : Word × Word) (m : Msg) : Prop :=
      Gives i s ((u.noteEndpoint e).buffer (.msg m)).commit
    let p := s.pairVal s.cur.core s.cur.ctx d
    let hw (v : Vals) : Word := if e = .zr then 0x80000000 else v.we
    let quiet (v : Vals) : Prop := e = .zr ∨ v.we.getLsbD 31 = false
    (let f : Form := { a := .r a, e := .r e, d := .p d }
     let u := (sendOperands f s).2
     let v := (sendOperands f s).1
     sends f s = true → quiet v → reachable f s (0xFFFF, v.wa) → p.2.toNat < 2 ^ 21 → p.1.toNat % 128 = 0 →
     ∃ m, puts (.launch d a e) u (0xFFFF, v.wa) m ∧ sentBy u m 5 [p.1, p.2, hw v] ∧ m.ans = false ∧ addressed u m (0xFFFF, v.wa)) ∧
    (let f : Form := { a := .r a, b := .r b, d := .p d }
     let u := (sendOperands f s).2
     let v := (sendOperands f s).1
     sends f s = true → v.wb ≠ 0 → p.1.toNat ≠ 65535 → reachable f s p →
     ∃ m, puts (.tdec d a b) u p m ∧ sentBy u m 3 [v.wa, v.wb] ∧ m.ans = s.fromAnswer ∧ addressed u m p) ∧
    (let f : Form := { a := .r a, b := .r b, e := .r e, d := .p d }
     let u := (sendOperands f s).2
     let v := (sendOperands f s).1
     let puts' (i : Instr) (op : Nat) : Prop := ∃ m, puts i u p m ∧ sentBy u m 2 [w32 op, v.wa, v.wb, 0, hw v] ∧
       m.prio = 0 ∧ m.ans = s.fromAnswer ∧ addressed u m p
     sends f s = true → quiet v → p.1.toNat ≠ 65535 → reachable f s p → v.wa.toNat % 4 = 0 →
     puts' (.amadd d a b e) 0x18 ∧ puts' (.amswp d a b e) 0x19 ∧ puts' (.ammax d a b e) 0x1B ∧
     puts' (.ammin d a b e) 0x1C ∧ puts' (.amor d a b e) 0x1D ∧ puts' (.amand d a b e) 0x1E) ∧
    (let f : Form := { a := .r a, b := .p q, e := .r e, d := .p d }
     let u := (sendOperands f s).2
     let v := (sendOperands f s).1
     let cv := s.pairVal s.cur.core s.cur.ctx q
     sends f s = true → quiet v → p.1.toNat ≠ 65535 → reachable f s p → v.wa.toNat % 4 = 0 →
     ∃ m, puts (.amcas d a q e) u p m ∧ sentBy u m 2 [0x1A, v.wa, cv.2, cv.1, hw v] ∧ m.prio = 0 ∧
       m.ans = s.fromAnswer ∧ addressed u m p)

/-- The end of an activation (R321, R351): with no reply outstanding, no vector instruction of the context queued and no
pending STEP, END and MIGR issue, release the send buffer (R30: the messages enter the mesh in program order under
consecutive numbers, the commands their engine queues), free the trigger's slots and the context, and give up the vector
slot; MIGR hands its continuation on as the last entry of the release: KIND 1, with g0 to g15, p0 to p7, lk and the flags
(R40). No byte of memory changes but by the stores that the context has issued and an operation of the iterative unit. -/
def Obligations.ActivationEnds : Prop :=
  ∀ (d : Pair) (a : Reg) (s : State) (t : Act),
    let core := s.cur.core
    let c := s.cur.ctx
    s.act core c = some t → t.ending = false → t.steps = 0 → t.reads = [] →
    ((s.core core).vq.all fun e => e.ctx != c) = true →
    let ends (i : Instr) (x : State) (l : List Buffered) : Prop :=
      let w := (x.commitIter core c).flush core c
      ∃ u : State, Gives i s u ∧ u.act core c = none ∧ (u.ctx core c).sbuf = [] ∧
        (∀ x ∈ (u.core core).buf, x.runner ≠ some c) ∧ (u.core core).vslot ≠ some c ∧ sameBytes w u ∧
        (released w core l → (u.ctx core c).handing = [] ∧ (u.ctx core c).waiting = [] ∧ handedOn core l w u)
    let buffered (x : State) : List Buffered := (x.ctx core c).handing ++ (x.ctx core c).waiting.flatten ++ (x.ctx core c).sbuf
    (issuesPlain {} s = true → ends .endAct s (buffered s)) ∧
    (let f : Form := { a := .r a, d := .p d, also := (List.finRange 16).map .g ++ [.lk] }
     let u := (operandsPlain f s).2
     let hw := (operandsPlain f s).1.wa
     let e := s.pairVal core c d
     let k := u.ctx core c
     issuesPlain f s = true → hw.getLsbD 31 = false → (s.fromAnswer = true → hw.getLsbD 22 = true) →
     e.1.toNat < 65535 → e.2.toNat < 2 ^ 22 → (∀ x ∈ [s, entered (portSeal f s) s, u], (x.endpoint e).1 ≠ .dead) →
     ((entered (portSeal f s) s).core core).iter = none →
     ∃ m, ends (.migr d a) ((u.noteEndpoint e).buffer (.msg m)) (buffered u ++ [.msg m]) ∧
       sentBy u m 1 (k.g.toList ++ k.pa.toList ++ [k.lk, w32 k.fflags.toNat]) ∧ carriesHandler m hw ∧
       m.ans = hw.getLsbD 22 ∧ addressed u m e)

/-- SEAL (R370, R371) issues at once and ends the prefix. With every earlier vector memory instruction of the context
performed it releases the send buffer (what a release hands on is in CommitAndSeal); else, or in a turn in which its accesses
perform later (the model's own turns, a DESIGN CHOICE: assumption 12), the entries become the last of the releases that wait, an
empty buffer a release without entries (R370), nothing leaves, and loads and stores of the context stay (R129, R139). FENCE 0 and FENCE 1 (R130, R132,
R330): they wait for those vector instructions, FENCE 1 also until every far store of the context is accepted, the requests
of its CPFST commands among them; then the loads and stores of the context have performed, nothing that it read ahead counts any more,
and nothing else changes. -/
def Obligations.SealAndFence : Prop :=
  ∀ s : State, issuesPlain {} s = true →
    let core := s.cur.core
    let c := s.cur.ctx
    let x := s.ctx core c
    let fenced := ((s.flush core c).acquire core c).commit
    let far : Prop := ∃ p ∈ s.pending, p.core = core ∧ p.ctx = c
    (s.releaseWaits core c = false →
      (s.cur.late = false → Gives .seal s (s.sealPrefix core c).commit) ∧ Gives .fence0 s fenced ∧
      (¬far → Gives .fence1 s fenced) ∧ (far → Gives .fence1 s s)) ∧
    (s.releaseWaits core c = true → Gives .fence0 s s ∧ Gives .fence1 s s) ∧
    (s.releaseWaits core c = true ∨ s.cur.late = true →
      ∃ t : State, Gives .seal s t ∧ t.isOpen core c = false ∧ (∀ b, t.act core c = some b → b.log = []) ∧ (t.ctx core c).sbuf = [] ∧
        (t.ctx core c).handing = x.handing ∧
        (t.ctx core c).waiting = x.waiting ++ [x.sbuf] ∧
        (t.ctx core c).lateStores = x.lateStores ∧ (t.ctx core c).lateLoads = x.lateLoads ∧ t.net = s.net ∧
        pcNext s t ∧ registersBut [] s t ∧ otherContexts s t ∧ sameBytes s t)

/-! ## Atomics, tasks, steps and barriers -/

/-- TSET (R41, R389) writes the 12 words of a task record and no other byte of any memory: COUNT from e, HWORD from a, the
payload count, 0, and g8 to g(8 + n - 1) followed by zeros. The stores perform as it issues; in a turn in which they perform
later (R129; the model's own turns, a DESIGN CHOICE: assumption 12) the twelve words wait in that order, as words of a record, until
whose end the context does not issue (R389: StepRunsDecodedInstruction). -/
def Obligations.TaskRecord : Prop :=
  ∀ (d a e : Reg) (n : Fin 9) (s : State),
    let core := s.cur.core
    let c := s.cur.ctx
    let f : Form := { a := .r a, e := .r e, d := .r d, also := payRegs n }
    let must := s.isOpen core c && (s.wordsFull core c (recordWords (peeked f s).wd.toNat) || f.ports)
    let u := (operands must f s).2
    let v := (operands must f s).1
    let addr := v.wd.toNat
    let pay : List Word := (List.range 8).map fun i => if i < n.val then (s.ctx core c).g[(8 + i) % 16]! else 0
    let words : List Word := [v.we, v.wa, w32 n.val, 0] ++ pay
    -- the loads and stores that the record's words must follow have performed (R127, R128)
    let w := (recordWords addr).foldl (fun (x : State) b => x.settleLoads core c fun y => y.addr == b) (u.awaitTcm core c addr)
    issues must f s = true → v.wa.getLsbD 31 = false → addr % 16 = 0 → addr ≤ 0x5FD0 →
    ∃ t : State, Gives (.tset d a n e) s t ∧ registersBut [] w t ∧ otherContexts s t ∧ pcNext s t ∧
      (s.cur.late = false → (t.mem (.tcm core)).words addr 12 = words ∧ bytesBut (.tcm core) addr 48 w t) ∧
      (s.cur.late = true → sameBytes w t ∧
        (t.ctx core c).lateStores = (w.ctx core c).lateStores ++
          words.zipIdx.map fun x => ⟨addr + 4 * x.2, 0xFFFFFFFF, x.1, .record, false⟩)

/-- The near atomics (R356, R357): with the word in the scratchpad, aligned, its line not poisoned and the word without an
error, each reads the old value, writes the new one and gives the old one to d; the prefix has ended before, the stores of the
context have performed and nothing that it read ahead counts any more (R130). -/
def Obligations.NearAtomics : Prop :=
  ∀ (d a b : Reg) (q : Pair) (s : State),
    let core := s.cur.core
    let must := s.isOpen core s.cur.ctx
    let fine (u : State) (x : Word) : Prop := x.toNat % 4 = 0 ∧ 0x100000 ≤ x.toNat ∧ x.toNat < 0x180000 ∧
      loadable u core x.toNat 4 = true
    let does (i : Instr) (u : State) (x new : Word) : Prop :=
      Gives i s ((u.setLocalWord core x.toNat new).write d (u.localWord core x.toNat)).commit
    s.releaseWaits core s.cur.ctx = false → (entered must s).releaseWaits core s.cur.ctx = false →
    (let f : Form := { a := .r a, b := .r b, dst := .r d }
     let u := ((operands must f s).2.flush core s.cur.ctx).acquire core s.cur.ctx
     let x := (operands must f s).1.wa
     let y := (operands must f s).1.wb
     issues must f s = true → (entered must s).closedPort core s.cur.ctx f = none → fine u x →
     does (.nadd d a b) u x (u.localWord core x.toNat + y) ∧ does (.nswp d a b) u x y) ∧
    (let f : Form := { a := .r a, b := .p q, dst := .r d }
     let u := ((operands must f s).2.flush core s.cur.ctx).acquire core s.cur.ctx
     let x := (operands must f s).1.wa
     let cv := s.pairVal core s.cur.ctx q
     issues must f s = true → (entered must s).closedPort core s.cur.ctx f = none → fine u x →
     does (.ncas d a q) u x (if u.localWord core x.toNat = cv.1 then cv.2 else u.localWord core x.toNat))

/-- When a STEP takes effect (R95): it waits until C ≥ s - 1; then k rises by one, and when k reaches Q the core arrives
at s, s rises by one, k is 0 and Q is STQUOTA as it then stands; a write of STQUOTA leaves Q alone. STEPs of every
context count toward the core's one k. STEPQ writes the pair of R99. Beside these two rules it states a part of two that it
does not cite as stated: of R96, that STEP while the prefix lasts only raises the count of pending STEPs; of R98, that STEPW
completes when C ≥ s - 1 and waits before, and with pending STEPs raises ILL. -/
def Obligations.StepRules : Prop :=
  (∀ (s : State) (x : Word),
     let core := s.cur.core
     let k := s.core core
     issuesPlain {} s = true → s.isOpen core s.cur.ctx = false →
     ((s.domain k.pid).c < (k.s.toNat : Int) - 1 → Gives .step s s) ∧
     ((k.s.toNat : Int) - 1 ≤ (s.domain k.pid).c →
       ∃ t : State, Gives .step s t ∧ pcNext s t ∧
         (k.k + 1 = k.q → (t.core core).arrived = k.arrived ++ [k.s] ∧ (t.core core).s = k.s + 1 ∧ (t.core core).k = 0 ∧
           (t.core core).q = k.stquota) ∧
         (k.k + 1 ≠ k.q → (t.core core).arrived = k.arrived ∧ (t.core core).s = k.s ∧ (t.core core).k = k.k + 1 ∧
           (t.core core).q = k.q)) ∧
     ((csrPut s core s.cur.ctx 0x106 x).core core).q = k.q) ∧
  (∀ (d : Pair) (s : State),
     let core := s.cur.core
     let c := s.cur.ctx
     let k := s.core core
     let dom := s.domain k.pid
     (issuesPlain {} s = true →
       (s.isOpen core c = true →
         ∃ t : State, Gives .step s t ∧ t.pendingSteps core c = s.pendingSteps core c + 1 ∧ t.core core = { k with last := c, issuedAt := some s.now } ∧
           pcNext s t) ∧
       (0 < s.pendingSteps core c → Gives .stepw s (s.issued.trap core c
         ⟨1, s.cur.ip.setWidth 32, s.cur.first.setWidth 32⟩ s.cur.pc s.cur.pc s.cur.popped)) ∧
       (s.pendingSteps core c = 0 → (k.s.toNat : Int) - 1 ≤ dom.c → Gives .stepw s s.commit) ∧
       (s.pendingSteps core c = 0 → dom.c < (k.s.toNat : Int) - 1 → Gives .stepw s s)) ∧
     (issuesPlain { dst := .p d } s = true →
       Gives (.stepq d 0) s (s.writePair d (w32 k.s.toNat) (w32 (k.s.toNat / 2 ^ 32))).commit ∧
       Gives (.stepq d 1) s (s.writePair d (wInt dom.c) (wInt (dom.c / 2 ^ 32))).commit ∧
       ∃ low, Gives (.stepq d 2) s (s.writePair d low dom.stretched).commit ∧ low.toNat % 65536 = k.k.toNat ∧
         (low.getLsbD 16 = true ↔ dom.phase = .held ∧ dom.c + 2 = k.s.toNat) ∧ low.getLsbD 17 = dom.abt ∧
         low.toNat < 2 ^ 18))


/-- The cluster barriers (R134, R304): BARA gives GEN to d and counts an arrival, the one that completes the generation
raises GEN by one and clears CNT; it is a release (R130), and with NEED = 0 as the arrival applies it raises ILL. BARW awaits
the generation that d holds as it issues: it completes when that one has passed, within half the range, as an acquire, and
otherwise waits for the same generation. BARI sets NEED and clears CNT, and above 255 raises ILL; GEN stays.
A port name as d is no encoding of the three (R134): the decoder rejects it, and the step raises ILL (R275;
StepRunsDecodedInstruction). -/
def Obligations.Barriers : Prop :=
  ∀ (d : Reg) (b : Fin 16) (s : State),
    let core := s.cur.core
    let c := s.cur.ctx
    let x := barrier s b
    let raised : State := s.issued.trap core c ⟨1, s.cur.ip.setWidth 32, s.cur.first.setWidth 32⟩
      s.cur.pc s.cur.pc s.cur.popped
    (∀ (k : Dir) (rest : List Parcel), d = .port k →
      ∀ i ∈ [Instr.bara d b, .barw d b, .bari d b], decode (encode i ++ rest) = .error .badRegister) ∧
    (d.notPort = true →
    (issuesPlain { dst := .r d } s = true → s.releaseWaits core c = false →
      (x.need = 0 → Gives (.bara d b) s raised) ∧
      (x.need ≠ 0 →
        Gives (.bara d b) s ((setBarrier (performed s) b (if x.cnt + 1 = x.need then ⟨x.gen + 1, x.need, 0⟩
          else ⟨x.gen, x.need, x.cnt + 1⟩)).write d x.gen).commit)) ∧
    (issuesPlain { dst := .r d } s = true → s.releaseWaits core c = true → Gives (.bara d b) s s) ∧
    (issuesPlain { d := .r d } s = true → ∀ a, s.act core c = some a →
      let g := a.waitGen.getD (s.regVal core c d)
      let passed : Prop := 1 ≤ (x.gen - g).toNat ∧ (x.gen - g).toNat ≤ 2 ^ 31 - 1
      let keep (o : Option Word) : State := s.updAct core c fun a => { a with waitGen := o }
      (passed → Gives (.barw d b) s ((keep none).acquire core c).commit) ∧
      (¬passed → Gives (.barw d b) s (keep (some g)))) ∧
    (issuesPlain { d := .r d } s = true →
      let g := s.regVal core c d
      (255 < g.toNat → Gives (.bari d b) s raised) ∧
      (g.toNat ≤ 255 → Gives (.bari d b) s (setBarrier s b ⟨x.gen, BitVec.ofNat 8 g.toNat, 0⟩).commit)))

/-! ## Vector instructions -/

/-- A vector instruction whose context holds the vector slot enters the core's queue while it has a place, with the vector
length of its issue, and completes its issue (R194); its result is written later. Without the slot it raises ILL
(R192). -/
def Obligations.VectorIssue : Prop :=
  ∀ (d a b : VNo) (r : Reg) (m : VMod) (c : Cond) (x : Bool) (rd : Rnd) (sat : Bool) (t u : Fmt) (s : State) (i : Instr),
    i ∈ [.vadd d a b m, .vsub d a b m, .vmul d a b m, .vfma d a b m, .vmin d a b m, .vmax d a b m, .vand d a b, .vor d a b,
      .vxor d a b, .vshl d a b, .vshr d a b, .vcmp d a b c x, .vsel d a b, .vcvt d a rd sat t u, .vexp2 d a rd x,
      .vlog2 d a rd x, .vrcp d a rd x, .vrsum r a m x, .vrmax r a m x, .vscan d a m, .vperm d a b] →
    issuesPlain { also := vecRegs i } s = true →
    let k := s.core s.cur.core
    (k.vslot = some s.cur.ctx → k.vq.length < 16 →
      ∃ e, Gives i s (s.updCore s.cur.core fun k => { k with vq := k.vq ++ [e] }).commit ∧ e.ins = i ∧
        e.ctx = s.cur.ctx ∧ e.vl = k.vl ∧ e.orig = s.cur.pc ∧ e.granted = 0 ∧ e.out = [] ∧ e.flags = 0 ∧ e.failed = false ∧
        e.popped = s.cur.popped) ∧
    (k.vslot ≠ some s.cur.ctx → Gives i s (s.issued.trap s.cur.core s.cur.ctx
      ⟨1, s.cur.ip.setWidth 32, s.cur.first.setWidth 32⟩ s.cur.pc s.cur.pc s.cur.popped))

/-- The vector instructions that read a register at issue: VBCST and VMVG keep its value in the queue (R406), VSETL sets the
vector length at once for every later instruction of the context (R394, R396); a lane above 63 and a length above 64
raise ILL. -/
def Obligations.VectorRegisterIssue : Prop :=
  ∀ (d : Reg) (v : VNo) (r : Reg) (s : State),
    let core := s.cur.core
    let enters (i : Instr) (n : Word → Prop) (len : Option Nat) : Prop :=
      let f : Form := { a := .r r, also := vecRegs i }
      let u := (operandsPlain f s).2
      let x := (operandsPlain f s).1.wa
      issuesPlain f s = true → (∀ y ∈ [s, u], (y.core core).vslot = some s.cur.ctx) →
      ((entered (portSeal f s) s).core core).vq.length < 16 →
      (n x → ∃ e t, Gives i s t ∧ (t.core core).vq = (u.core core).vq ++ [e] ∧ e.ins = i ∧ e.ctx = s.cur.ctx ∧ e.x = x ∧
        (t.core core).vl = len.elim (u.core core).vl (fun _ => x.toNat) ∧ pcNext s t ∧
        registersBut [] (afterStores (portSeal f s) f s) t ∧ sameBytes (afterStores (portSeal f s) f s) t) ∧
      (¬n x → Gives i s (u.issued.trap core s.cur.ctx ⟨1, s.cur.ip.setWidth 32, s.cur.first.setWidth 32⟩
        s.cur.pc s.cur.pc u.cur.popped))
    enters (.vbcst v r) (fun _ => True) none ∧ enters (.vmvg d v r) (fun x => x.toNat < 64) none ∧
    enters (.vsetl r) (fun x => x.toNat ≤ 64) (some 0)

/-- VACQ (R193, R395): a free slot that no other context awaits goes to the issuing context with v0 to v7 zero, no lane
poisoned and a length of 64; a context that holds it completes without effect; otherwise the context takes its place
among the waiting and does not advance. -/
def Obligations.SlotAcquisition : Prop :=
  ∀ s : State, issuesPlain {} s = true →
    let core := s.cur.core
    let c := s.cur.ctx
    let k := s.core core
    (k.vslot = some c → Gives .vacq s s.commit) ∧
    (k.vslot = none → (k.vwait = [] ∨ k.vwait.head? = some c) →
      ∃ t : State, Gives .vacq s t ∧ (t.core core).vslot = some c ∧ (t.core core).vl = 64 ∧ pcNext s t ∧
        ∀ v i, (t.core core).lane v i = 0 ∧ (t.core core).lanePoison v i = false) ∧
    (k.vslot ≠ some c → (k.vslot ≠ none ∨ (k.vwait ≠ [] ∧ k.vwait.head? ≠ some c)) →
      ∃ t : State, Gives .vacq s t ∧ (t.core core).vslot = k.vslot ∧ c ∈ (t.core core).vwait ∧
        (t.act core c).map Act.pc = (s.act core c).map Act.pc)

/-- The vector memory instructions (R407 to R410): with the slot, a place in the queue and an array that passes the checks
of R408, VLD, VGTH, VST and VSCT enter the queue with their effective address, behind the releases of their context that
have not begun (R139), and advance the pointer when P = 1; a synchronising load reads at its issue: it needs every line that it
reads to be full (R410), and comes after the earlier vector memory instructions of its context and their stores to its words (R127),
and after the context's releases and its push to a port (R139). The stores here find room in the undo log. -/
def Obligations.VectorMemoryIssue : Prop :=
  ∀ (d e : VNo) (m : MemOp) (t : Fmt) (s : State),
    let core := s.cur.core
    let c := s.cur.ctx
    let ea := (s.ea m 4).toNat
    -- the bytes that a vector store of the context to one of some words, still to perform, writes
    let stored (words : List Nat) (q : MemPlace) (b : Nat) : Prop := ∃ y ∈ (s.ctx core c).lateStores, y.kind = .vector ∧
      y.addr ∈ words ∧ q = placeOf core y.addr ∧ offsetOf y.addr ≤ b ∧ b < offsetOf y.addr + 4
    let entersBut (words : List Nat) (i : Instr) : Prop := ∃ x w, Gives i s w ∧ (w.core core).vq = (s.core core).vq ++ [x] ∧
      x.ins = i ∧ x.ctx = c ∧ x.x = s.ea m 4 ∧ x.after = (s.ctx core c).waiting.length ∧ pcNext s w ∧ registersBut [] s w ∧
      (∀ q b, ¬stored words q b → (w.mem q).byte b = (s.mem q).byte b) ∧
      (w.ctx core c).pa = (if m.post then ((s.ctx core c).bump m.p).pa else (s.ctx core c).pa)
    let enters (i : Instr) : Prop := entersBut [] i
    let synced (i : Instr) : Prop := s.vecMemPending core c = false → (s.ctx core c).waiting = [] →
      (∀ op, (s.core core).iter = some op → op.ctx = c → ∀ k, op.dst ≠ .port k) →
      (∀ w ∈ vecReads s i ea, s.isFull core (128 * (w / 128)) = true) → entersBut (vecReads s i ea) i
    (s.core core).vslot = some c → (s.core core).vq.length < 16 →
    (issues false {} s = true → vecAccess s m t true = none →
      enters (.vld d m false t) ∧
      synced (.vld d m true t) ∧
      (s.wordsFull core c (vstWords t ea (s.core core).vl) = false → enters (.vst d m t))) ∧
    (issues false {} s = true → vecAccess s m t false = none →
      enters (.vgth d m false e t) ∧
      (indexReady s e = true → synced (.vgth d m true e t)) ∧
      (s.logFull core c (s.core core).vl = false → enters (.vsct d m e t)))

/-! ## Engines, global memory, special registers -/

/-- The matrix commands (R353, R354): with a place in the send buffer, words that pass the checks of R179 to R187 and a
reply handler word whose bit 31 is 0, each puts one entry with its words as they are at issue into the send buffer; MXDR
keeps its rounding mode and saturation. MXDRA needs a peer core on this chip, and its entry holds the peer and its key
(R187). -/
def Obligations.MatrixCommands : Prop :=
  ∀ (d e : Reg) (a b : Pair) (r : Rnd) (sat : Bool) (s : State),
    let pa := s.pairVal s.cur.core s.cur.ctx a
    let pb := s.pairVal s.cur.core s.cur.ctx b
    let enters (f : Form) (u : State) (i : Instr) (op : MxOp) (x y : Word × Word) (more : MxCmd → Prop) : Prop :=
      let v := (sendOperands f s).1
      ∃ m, Gives i s (u.buffer (.matrix m)).commit ∧ m.op = op ∧ m.w = v.wd ∧ (m.a0, m.a1) = x ∧
        (m.b0, m.b1) = y ∧ m.hw = (if e = .zr then none else some v.we) ∧ m.by_.core = s.cur.core ∧
        m.by_.ctx = s.cur.ctx ∧ m.by_.pid = (u.core s.cur.core).pid ∧
        m.by_.tag.toNat = (u.core s.cur.core).s.toNat % 65536 ∧ more m
    let fine (f : Form) (bad : Vals → Bool) : Prop := sends f s = true ∧
      ((sendOperands f s).1.we.getLsbD 31 = false ∨ e = .zr) ∧ bad (sendOperands f s).1 = false
    (let f : Form := { e := .r e, d := .r d }
     fine f (fun v => cfgBad v.wd) → enters f (sendOperands f s).2 (.mxcfg d e) .cfg (0, 0) (0, 0) fun _ => True) ∧
    (let f : Form := { a := .p a, e := .r e, d := .r d }
     let u := (sendOperands f s).2
     (fine f ldBad → enters f u (.mxld d a e) .ld pa (0, 0) fun _ => True) ∧
     (fine f drBad → enters f u (.mxdr d a e r sat) .dr pa (0, 0) fun m => m.rnd = r ∧ m.sat = sat) ∧
     (fine f (fun v => drainBad v.wd || !(wOtype v.wd == 0 || wOtype v.wd == 6) ||
         (wOtype v.wd == 6 && decide (wScale v.wd < 0))) →
       pa.1.toNat < 65536 → pa.2.toNat < 2 ^ 22 →
       (∀ x ∈ u :: checksIn f s, (drainPeer x (some pa)).isSome = true) →
       enters f (u.noteEndpoint pa) (.mxdra d a e) .dra pa (0, 0) fun m => drainPeer u (some pa) = some (m.peer, m.peerKey))) ∧
    (let f : Form := { a := .p a, b := .p b, e := .r e, d := .r d }
     fine f mulBad → enters f (sendOperands f s).2 (.mxmul d a b e) .mul pa pb fun _ => True)

/-- MXQRY (R175, R355): the mask of a tile; its XCNT and mode; the queue's length with WLV, and the replay count; a reserved
bit or selector raises ILL. PWRQ (R362) writes the governor's value that it selects; of selector 2, WARN is set at or above
105 °C (R269). -/
def Obligations.EngineQueries : Prop :=
  ∀ (d : Pair) (r a : Reg) (s : State),
    (let f : Form := { a := .r a, dst := .p d }
     let u := (operandsPlain f s).2
     let q := (operandsPlain f s).1.wa
     let x := u.cluster (clusterOf s.cur.core)
     let tile := x.tiles[q.toNat % 8]'(Nat.mod_lt _ (by decide))
     issuesPlain f s = true →
     (q.toNat / 8 = 0 → Gives (.mxqry d a) s (u.writePair d (w32 tile.mask.toNat) (w32 (tile.mask.toNat / 2 ^ 32))).commit) ∧
     (q.toNat / 8 = 1 → Gives (.mxqry d a) s
       (u.writePair d tile.xcnt (w32 (tile.mode.toNat + if tile.pn then 4 else 0))).commit) ∧
     (q.toNat / 8 = 2 → Gives (.mxqry d a) s
       (u.writePair d (w32 (x.mxq.length + if x.wlvSince.isSome then 64 else 0)) x.repl).commit) ∧
     (3 ≤ q.toNat / 8 → Gives (.mxqry d a) s (u.issued.trap s.cur.core s.cur.ctx
       ⟨1, s.cur.ip.setWidth 32, s.cur.first.setWidth 32⟩ s.cur.pc s.cur.pc u.cur.popped))) ∧
    (let f : Form := { dst := .r r }
     let u := (operandsPlain f s).2
     let die := dieOfCore s.cur.core
     let cl := clusterOf s.cur.core
     let gives (sel : Fin 5) (v : Word) : Prop := Gives (.pwrq r sel) s (u.write r v).commit
     issuesPlain f s = true →
     gives 0 (w32 (u.rate die)) ∧
     (-(2 ^ 31) < u.credit die → u.credit die < 2 ^ 31 → gives 1 (wInt (u.credit die))) ∧
     gives 2 (w32 (u.host.watt.toNat + if 105 ≤ (u.die die).temp.toNat then 2 ^ 13 else 0)) ∧ gives 3 (w32 (u.wlvTime cl)) ∧
     (u.waitingCharge cl < 2 ^ 32 → gives 4 (w32 (u.waitingCharge cl))))

/-- The copy commands (R202 to R205, R314): with a place in the send buffer, words that pass the checks of R205 and a
global address that is canonical and aligned, each puts one command with its words as they are at issue into the send
buffer; CPFST ends the prefix; CPPUT needs an endpoint that resolves, and its command holds the peer (R208). -/
def Obligations.CopyCommands : Prop :=
  ∀ (d r e : Reg) (a b : Pair) (s : State),
    let core := s.cur.core
    let pa := s.pairVal core s.cur.ctx a
    let pb := s.pairVal core s.cur.ctx b
    let enters (i : Instr) (u : State) (v : Vals) (op : CpOp) (x : BitVec 64) (peer : CpCmd → Prop) : Prop :=
      ∃ m, Gives i s (u.buffer (.copy m)).commit ∧ m.op = op ∧ m.w = v.wd ∧ m.a = x ∧ (m.b0, m.b1) = pb ∧
        m.hw = (if e = .zr then none else some v.we) ∧ m.by_.core = core ∧ m.by_.ctx = s.cur.ctx ∧
        m.by_.pid = (u.core core).pid ∧ m.by_.tag.toNat = (u.core core).s.toNat % 65536 ∧ peer m
    let fine (v : Vals) (op : CpOp) : Prop :=
      (v.we.getLsbD 31 = false ∨ e = .zr) ∧ cpBad op v.wd pb.1 pb.2 = false
    (let f : Form := { a := .p a, b := .p b, e := .r e, d := .r d }
     let global (far : Bool) (i : Instr) (op : CpOp) : Prop :=
       let u := (sendOperandsAs far f s).2
       let v := (sendOperandsAs far f s).1
       sendsAs far f s = true → pa.2.toNat < 2 ^ 21 → pa.1.toNat % cpUnit v.wd = 0 → fine v op →
       enters i u v op (pa.2 ++ pa.1) (fun _ => True) ∧ (far = true → u.isOpen core s.cur.ctx = false)
     global false (.cpget d a b e) .get ∧ global true (.cpfst d a b e) .fst ∧
     (let u := (sendOperands f s).2
      let v := (sendOperands f s).1
      sends f s = true → fine v .put → reachable f s pa → pa.1.toNat ≠ 65535 →
      enters (.cpput d a b e) (u.noteEndpoint pa) v .put (pa.2 ++ pa.1) fun m =>
        match (u.endpoint pa).1 with
        | .here c k => m.peer = c.toNat ∧ m.peerChip = u.chip ∧ m.peerKey = k
        | .far chip l => m.peer = l.toNat ∧ m.peerChip = chip
        | .dead => False)) ∧
    (let f : Form := { a := .r r, b := .p b, e := .r e, d := .r d }
     let v := (sendOperands f s).1
     sends f s = true → fine v .fill →
     enters (.cpfill d r b e) (sendOperands f s).2 v .fill (v.wa.setWidth 64) fun _ => True)

/-- GLD and GLDD (R332, R333): with fewer than 8 reads of the activation outstanding and a canonical, aligned address each
sends one read of 1 or 2 words to the translating station of its die, whose selector is the XOR of the 2-bit fields of
VA[53:30] (R81), completes its issue, and leaves its registers awaiting the reply; no register changes yet. GST, GSTD and
GSTMC (R101, R102, R334, R335): with a place in the far-store window and a canonical, aligned address each ends the prefix,
takes the core's next far-store number, sends its words with the low half of e as order key, and completes. GSTMC sends one
copy, of one number, to each chip that a member of its valid group names (R261), where 0xFFFE names the chip of SVEPH (R90):
on this chip to the translating station, to another from the station that translates it there, each in its place in the
order of the accesses (R141); a member whose rank names no chip makes no copy (the model's choice: assumption 22).
No register and no byte of memory changes at the issue but by the stores that the seal
makes perform. -/
def Obligations.GlobalMemoryIssue : Prop :=
  let station (s : State) (va : BitVec 64) : Nat :=
    let f (i : Nat) : BitVec 2 := va.extractLsb' (30 + 2 * i) 2
    4 * dieOfCore s.cur.core +
      (f 0 ^^^ f 1 ^^^ f 2 ^^^ f 3 ^^^ f 4 ^^^ f 5 ^^^ f 6 ^^^ f 7 ^^^ f 8 ^^^ f 9 ^^^ f 10 ^^^ f 11).toNat
  let issuedBy (s : State) (i : Issuer) : Prop :=
    let k := s.core s.cur.core
    i.core = s.cur.core ∧ i.ctx = s.cur.ctx ∧ i.pid = k.pid ∧ i.lcore = k.lcore ∧ i.rank = k.rank ∧
      i.tag.toNat = k.s.toNat % 65536
  (∀ (d : Reg) (p a : Pair) (s : State),
     let core := s.cur.core
     let va := s.pairVal core s.cur.ctx a
     let gva : BitVec 64 := va.2 ++ va.1
     let reads (f : Form) (i : Instr) (n : Nat) (regs : List (Fin 16)) : Prop :=
       issuesPlain f s = true → readsOpen s < 8 → va.2.toNat < 2 ^ 21 → va.1.toNat % (4 * n) = 0 →
       ∃ (t : State) (g : GlobalRead), Gives i s t ∧ t.reads = s.reads ++ [g] ∧ g.va = gva ∧ g.nwords = n ∧ issuedBy s g.by_ ∧
         g.tag = g.by_.tag ∧ g.station = some (station s gva) ∧ g.at_ = none ∧ g.second = false ∧ g.raw = false ∧
         (∀ k ∈ regs, Reg.g k ∈ t.awaited core s.cur.ctx) ∧ pcNext s t ∧ registersBut [] s t ∧
         sameBytes s t
     (d.gz = true → reads { a := .p a, dst := .r d } (.gld d a) 1 (match d with | .g k => [k] | _ => [])) ∧
     reads { a := .p a, dst := .p p } (.gldd p a) 2 (pairRegs p)) ∧
  (∀ (d b e : Reg) (p a : Pair) (s : State),
     let core := s.cur.core
     let must := s.isOpen core s.cur.ctx
     let va := s.pairVal core s.cur.ctx a
     let gva : BitVec 64 := va.2 ++ va.1
     let room : Prop := ((entered must s).pending.filter fun x => x.core == core && x.cmd.isNone).length < 64
     let after (f : Form) (u t : State) : Prop :=
       (t.core core).farSeq = (u.core core).farSeq + 1 ∧ t.isOpen core s.cur.ctx = false ∧ pcNext s t ∧
       registersBut [] (afterStores must f s) t ∧ otherContexts s t ∧ sameBytes (afterStores must f s) t
     let sendsOne (f : Form) (i : Instr) (n : Nat) (ws : Vals → List Word) : Prop :=
       let u := (operands must f s).2
       let v := (operands must f s).1
       issues must f s = true → room → va.2.toNat < 2 ^ 21 → va.1.toNat % (4 * n) = 0 →
       ∃ (t : State) (st : FarStore) (w : Pending), Gives i s t ∧ t.stores = u.stores ++ [st] ∧ st.va = gva ∧ st.words.map (·.2) = ws v ∧
         st.words.map (·.1) = (List.range n).map (fun i => gva + BitVec.ofNat 64 (4 * i)) ∧
         st.key.toNat = v.we.toNat % 65536 ∧ st.seq = (u.core core).farSeq ∧ issuedBy u st.by_ ∧
         st.place = .translate (station s gva) ∧ t.pending = u.pending ++ [w] ∧ w.core = core ∧ w.ctx = s.cur.ctx ∧
         w.seq = st.seq ∧ w.chips = [u.chip] ∧ w.cmd = none ∧ after f u t
     sendsOne { a := .p a, e := .r e, d := .r d } (.gst d a e) 1 (fun v => [v.wd]) ∧
     sendsOne { a := .p a, e := .r e, d := .p p } (.gstd p a e) 2
       (fun _ => [(s.pairVal core s.cur.ctx p).1, (s.pairVal core s.cur.ctx p).2]) ∧
     (let f : Form := { a := .p a, b := .r b, e := .r e, d := .p p }
      let u := (operands must f s).2
      let v := (operands must f s).1
      let g := s.pairVal core s.cur.ctx p
      let pid := (u.core core).pid
      issues must f s = true → room → va.2.toNat < 2 ^ 21 → va.1.toNat % 4 = 0 → g.1.toNat < 4096 → g.2 = 0 →
      (∀ x ∈ [s, u], x.groupValid (x.core core).pid g.1.toNat = true) →
      ∃ (t : State) (st : FarStore) (chips : List (BitVec 22)), Gives (.gstmc p a b e) s t ∧ after f u t ∧
        chips.Nodup ∧
        (let q := u.groupMembers pid (u.stepTag core) g.1.toNat
         let rank (m : BitVec 16 × BitVec 22) : Nat := if m.1 = 0xFFFE then (u.core core).svchip.toNat else m.2.toNat
         ∀ chip, chip ∈ chips ↔ ∃ m ∈ q.2, q.1.chipOf pid (rank m) = some chip) ∧
        st.kind = .gstmc ∧ st.va = gva ∧ st.words = [(gva, v.wb)] ∧ st.key.toNat = v.we.toNat % 65536 ∧
        st.seq = (u.core core).farSeq ∧ issuedBy u st.by_ ∧
        t.stores = u.stores ++ chips.zipIdx.map (fun x => { st with
          place := if x.1 = u.chip then .translate (station s gva) else .away x.1 (station s gva)
          born := u.readId + x.2 }) ∧
        (chips = [] → t.pending = u.pending) ∧
        (chips ≠ [] → ∃ w, t.pending = u.pending ++ [w] ∧ w.core = core ∧ w.ctx = s.cur.ctx ∧ w.seq = st.seq ∧
          w.chips = chips ∧ w.cmd = none)))

/-- CSRR and CSRW (R62, R317, R318): with an allocated number that the context may name, and for CSRW one with a writable
field, each reads or writes its register and completes. PQDATA pops or appends a word of the selected queue, and ends the
prefix before: a read takes the oldest word of the queue that PQSEL names, or gives 0, and a write appends a word or, at 4
words, sets QOVF (R65); CYCLE latches its high word; FFLAGS waits for the earlier instructions of the context that set flags. The
rows of the table that name one register are the same instructions. -/
def Obligations.ControlRegisters : Prop :=
  (∀ (s : State) (core : Nat) (x : Word),
    let k := s.core core
    let q := k.qctx.toNat
    let d : Fin 4 := k.qdir.toFin
    let words := (s.ctx core q).inq[d]
    (words = [] → pqPop s core = (0, s)) ∧
    (∀ w r, words = w :: r → (pqPop s core).1 = w ∧ ((pqPop s core).2.ctx core q).inq[d] = r ∧ sameBytes s (pqPop s core).2) ∧
    (words.length < 4 → ((pqPush s core x).ctx core q).inq[d] = words ++ [x] ∧ (pqPush s core x).core core = k) ∧
    (4 ≤ words.length → ((pqPush s core x).core core).qovf = true ∧ ((pqPush s core x).ctx core q).inq[d] = words)) ∧
  ∀ (d : Reg) (n : Nat) (s : State),
    let core := s.cur.core
    let c := s.cur.ctx
    let must (f : Form) : Bool := s.isOpen core c && (n == 0x10D || f.ports)
    let runs (f : Form) : Prop := issues (must f) f s = true ∧ (n = 4 → flagsReady (entered (must f) s) = true)
    csrAllocated n = true → (n < 0x100 ∨ c = 7) →
    (let f : Form := { dst := .r d }
     let u := (operands (must f) f s).2
     let latched := u.updCtx core c fun y => { y with chi := w32 (u.cycle core / 2 ^ 32) }
     let t : State :=
       if n = 0x10D then (pqPop u core).2.write d (pqPop u core).1
       else if n = 0x010 then latched.write d (w32 (u.cycle core))
       else u.write d (csrVal u core c n)
     runs f → Gives (.csrr d n) s t.commit ∧ (n = 0x10D → Gives (.pqdataRead d) s t.commit) ∧
       (n = 0x010 → Gives (.cycleRead d) s t.commit)) ∧
    (let f : Form := { d := .r d }
     let u := (operands (must f) f s).2
     let v := (operands (must f) f s).1.wd
     let t : State := if n = 0x10D then pqPush u core v else csrPut u core c n v
     runs f → csrReadOnly n = false →
     Gives (.csrw d n) s t.commit ∧ (n = 0x10D → Gives (.pqdataWrite d) s t.commit) ∧
       (n = 0x120 → Gives (.fqbaseWrite d) s t.commit) ∧ (n = 0x121 → Gives (.fqheadWrite d) s t.commit))

/-- The checks of R62, in their order, each before any pop: PRIV from contexts 1 to 6 for a number from 0x100 up, with the
number in INFO1 (R232); ILL for a number that the map does not allocate; ILL for CSRW of a register with read-only fields
alone. What a read gives (R63, R65, R158, R209, R241, R245, R247): every register's fields where its table places them. And
what a write leaves in a register: the value within its limits; CHKCNT or CHKLIM with a count at its limit retires the core,
and CECNT at its threshold returns to 0 (R245, R247 give both for a count that an error raises: that a write too brings them
about is the model's reading, assumption 24); FQHEAD frees lines up to TAIL (R241; a value of N or more is taken as one
beyond TAIL by the model's choice: assumption 93). QCNT of a queue that holds more than 4 words is its length modulo 8 (the
model's: assumption 69). A write of neither CHKCNT nor CHKLIM changes no g register, no lk and no byte of memory. -/
def Obligations.ControlRegisterRules : Prop :=
  (∀ (d : Reg) (n : Nat) (s : State),
    let raised (t : TrapInfo) : State := s.issued.trap s.cur.core s.cur.ctx t s.cur.pc s.cur.pc s.cur.popped
    let ill : TrapInfo := ⟨1, s.cur.ip.setWidth 32, s.cur.first.setWidth 32⟩
    let r : Bool := attends { dst := .r d } s
    let w : Bool := attends { d := .r d } s
    (s.cur.ctx ≠ 7 → 0x100 ≤ n →
      (r = true → Gives (.csrr d n) s (raised ⟨2, s.cur.ip.setWidth 32, w32 n⟩)) ∧
      (w = true → Gives (.csrw d n) s (raised ⟨2, s.cur.ip.setWidth 32, w32 n⟩))) ∧
    (s.cur.ctx = 7 ∨ n < 0x100 →
      (csrAllocated n = false → (r = true → Gives (.csrr d n) s (raised ill)) ∧ (w = true → Gives (.csrw d n) s (raised ill))) ∧
      (csrReadOnly n = true → w = true → Gives (.csrw d n) s (raised ill)))) ∧
  (∀ (s : State) (core c : Nat), core < 40960 → c ≤ 7 →
    let k := s.core core
    let x := s.cluster (clusterOf core)
    let v (n : Nat) : Nat := (csrVal s core c n).toNat
    let loads (i : Nat) : Nat :=
      let l (j : Nat) : Nat := s.load (coreOfCluster (clusterOf core) (i + j))
      l 0 + 2 ^ 8 * l 1 + 2 ^ 16 * l 2 + 2 ^ 24 * l 3
    v 0x000 = k.lcore.toNat + 2 ^ 16 * (core % 128) + 2 ^ 23 * (core / 128) ∧ v 0x001 = k.rank.toNat ∧ v 0x002 = k.pid.toNat ∧
    v 0x003 = c + (if k.vslot = some c then 8 else 0) ∧ v 0x004 = (s.ctx core c).fflags.toNat ∧
    v 0x010 = s.cycle core % 2 ^ 32 ∧ v 0x011 = (s.ctx core c).chi.toNat ∧
    v 0x012 = (s.act core c).elim 0 (fun a => a.deadline - s.now) % 2 ^ 32 ∧ v 0x013 = k.s.toNat % 2 ^ 32 ∧
    v 0x014 = loads 0 ∧ v 0x015 = loads 4 ∧
    v 0x100 = k.pkey.toNat ∧ v 0x101 = k.buddef.toNat ∧ v 0x102 = k.budmax.toNat ∧ v 0x103 = k.redlim.toNat ∧
    v 0x104 = k.mxretry.toNat ∧ v 0x105 = k.vweight.toNat ∧ v 0x106 = k.stquota.toNat ∧ v 0x107 = k.stallmax.toNat ∧
    v 0x108 = k.svcore.toNat ∧ v 0x109 = k.svchip.toNat ∧ v 0x10A = k.chkcnt.toNat ∧ v 0x10B = x.clthr.toNat ∧
    (let n := ((s.ctx core k.qctx.toNat).inq[k.qdir.toFin]).length
     v 0x10C = k.qctx.toNat + 2 ^ 3 * k.qdir.toNat + 2 ^ 8 * (n % 8) + 2 ^ 11 * k.qovf.toNat) ∧
    v 0x110 = x.gen.toNat % 2 ^ 32 ∧ v 0x111 = x.gen.toNat / 2 ^ 32 ∧
    v 0x120 = 2 ^ 7 * k.fqBase.toNat + 2 ^ 19 * k.fqNlm1.toNat + 2 ^ 31 * k.fqEn.toNat ∧ v 0x121 = k.fqHead.toNat ∧
    v 0x122 = k.fqTail.toNat + 2 ^ 12 * k.fqCnt.toNat ∧ v 0x123 = k.fqEntry.toNat + 2 ^ 16 * k.fqPrio.toNat ∧
    v 0x124 = k.mlim.toNat + 2 ^ 16 * k.tlim.toNat + 2 ^ 20 * k.tcnt.toNat + 2 ^ 24 * k.ret.toNat ∧
    v 0x125 = x.ceCnt.toNat + 2 ^ 16 * x.ceThr.toNat ∧ v 0x126 = x.ueCnt.toNat ∧
    ∀ w : Fin 16, v (0x140 + 2 * w.val) = 2 ^ 7 * x.wins[w].base.toNat + 2 ^ 19 * x.wins[w].nlw.toNat + 2 ^ 31 * x.wins[w].en.toNat ∧
      v (0x141 + 2 * w.val) = x.wins[w].entry.toNat + 2 ^ 16 * x.wins[w].prio.toNat + 2 ^ 22 * x.wins[w].tcore.toNat
        + 2 ^ 25 * x.wins[w].utag.toNat) ∧
  (∀ (s : State) (core c : Nat) (x : Word),
    let k (n : Nat) : Core := (csrPut s core c n x).core core
    let old := s.core core
    let fields (i w : Nat) : Nat := x.toNat / 2 ^ i % 2 ^ w
    ((csrPut s core c 4 x).ctx core c).fflags.toNat = fields 0 5 ∧
    (k 0x100).pkey.toNat = fields 0 16 ∧
    (k 0x101).buddef.toNat = max 1 (min (2 ^ 28) (fields 0 29)) ∧ (k 0x102).budmax.toNat = max 1 (min (2 ^ 28) (fields 0 29)) ∧
    (k 0x103).redlim.toNat = fields 0 2 ∧ (k 0x104).mxretry.toNat = fields 0 4 ∧
    (k 0x105).vweight.toNat = max 1 (fields 0 4) ∧ (k 0x106).stquota.toNat = max 1 (fields 0 16) ∧
    (k 0x107).stallmax.toNat = max 1 x.toNat ∧ (k 0x108).svcore.toNat = fields 0 16 ∧ (k 0x109).svchip.toNat = fields 0 22 ∧
    (k 0x10C).qctx.toNat = max 1 (fields 0 3) ∧ (k 0x10C).qdir.toNat = fields 3 2 ∧
    ((k 0x10C).qovf = true ↔ old.qovf = true ∧ x.getLsbD 11 = false) ∧
    (k 0x123).fqEntry.toNat = fields 0 16 ∧ (k 0x123).fqPrio.toNat = fields 16 6 ∧
    (k 0x120).fqEn = x.getLsbD 31 ∧
    (old.fqCnt ≠ 0 → (k 0x120).fqBase = old.fqBase ∧ (k 0x120).fqNlm1 = old.fqNlm1 ∧ (k 0x120).fqHead = old.fqHead ∧
      (k 0x120).fqTail = old.fqTail) ∧
    (old.fqCnt = 0 → (k 0x120).fqBase.toNat = fields 7 12 ∧ (k 0x120).fqNlm1.toNat = fields 19 12 ∧ (k 0x120).fqHead = 0 ∧
      (k 0x120).fqTail = 0) ∧
    (let gen := (((csrPut s core c 0x110 x).cluster (clusterOf core)).gen)
     let high := (s.cluster (clusterOf core)).gen.toNat / 2 ^ 32
     gen.toNat = if high = 0 ∧ x = 0 then 0x9E3779B97F4A7C15 else 2 ^ 32 * high + x.toNat) ∧
    (let gen := (((csrPut s core c 0x111 x).cluster (clusterOf core)).gen)
     let low := (s.cluster (clusterOf core)).gen.toNat % 2 ^ 32
     gen.toNat = if low = 0 ∧ x = 0 then 0x9E3779B97F4A7C15 else 2 ^ 32 * x.toNat + low) ∧
    (let cl (n : Nat) : Cluster := (csrPut s core c n x).cluster (clusterOf core)
     (cl 0x10B).clthr.toNat = fields 0 6 ∧ (cl 0x126).ueCnt.toNat = fields 0 16 ∧ (cl 0x125).ceThr.toNat = fields 16 16 ∧
     (cl 0x125).ceCnt.toNat = (if fields 16 16 ≠ 0 ∧ fields 16 16 ≤ fields 0 16 then 0 else fields 0 16) ∧
     ∀ w : Fin 16,
       (let y := (cl (0x140 + 2 * w.val)).wins[w]
        let z := (s.cluster (clusterOf core)).wins[w]
        y = { z with base := BitVec.ofNat 12 (fields 7 12), nlw := BitVec.ofNat 12 (fields 19 12), en := x.getLsbD 31 }) ∧
       (let y := (cl (0x141 + 2 * w.val)).wins[w]
        let z := (s.cluster (clusterOf core)).wins[w]
        y = { z with entry := BitVec.ofNat 16 (fields 0 16), prio := BitVec.ofNat 6 (fields 16 6),
                     tcore := BitVec.ofNat 3 (fields 22 3), utag := BitVec.ofNat 7 (fields 25 7) }) ∧
       ∀ n, 0x140 ≤ n → n < 0x160 → (n - 0x140) / 2 ≠ w.val → (cl n).wins[w] = (s.cluster (clusterOf core)).wins[w]) ∧
    (let lines := old.fqNlm1.toNat + 1
     let freed := (fields 0 12 + lines - old.fqHead.toNat) % lines
     let y := k 0x121
     old.fqHead.toNat < lines → old.fqCnt.toNat ≤ lines →
     (fields 0 12 < lines ∧ freed ≤ old.fqCnt.toNat → y.fqHead.toNat = fields 0 12 ∧ y.fqCnt.toNat = old.fqCnt.toNat - freed) ∧
     (¬(fields 0 12 < lines ∧ freed ≤ old.fqCnt.toNat) →
       y.fqHead.toNat = (old.fqHead.toNat + old.fqCnt.toNat) % lines ∧ y.fqCnt = 0)) ∧
    (let reached (lim n : Nat) : Prop := lim ≠ 0 ∧ lim ≤ n
     (¬(reached old.mlim.toNat (fields 0 16) ∨ reached old.tlim.toNat old.tcnt.toNat) ∨ old.ret = true →
       (k 0x10A) = { old with chkcnt := BitVec.ofNat 16 (fields 0 16) }) ∧
     (¬(reached (fields 0 16) old.chkcnt.toNat ∨ reached (fields 16 4) old.tcnt.toNat) ∨ old.ret = true →
       (k 0x124) = { old with mlim := BitVec.ofNat 16 (fields 0 16), tlim := BitVec.ofNat 4 (fields 16 4) }) ∧
     (reached old.mlim.toNat (fields 0 16) → (k 0x10A).ret = true) ∧
     (reached (fields 0 16) old.chkcnt.toNat → (k 0x124).ret = true)) ∧
    (∀ n, n ≠ 0x10A → n ≠ 0x124 → sameBytes s (csrPut s core c n x) ∧
      ∀ q e, ((csrPut s core c n x).ctx q e).g = (s.ctx q e).g ∧ ((csrPut s core c n x).ctx q e).lk = (s.ctx q e).lk))

/-! ## Traps -/

/-- TRAP and BRK (R310, R391) commit nothing and raise SWT and BRK with the code in INFO0 and 0 in INFO1. The privileged
instructions SVSEND, REDLV, STABT, STCMT and MAPW raise PRIV from contexts 1 to 6 (R275, R347, R363, R377, R382), with
the instruction parcel in INFO0 and 0 in INFO1, before any pop and any check of a value (R234, R275, R285). REDLV, STABT, STCMT and MAPW on context 7 (R343, R363,
R382): with a place in the send buffer, and words that pass their checks, each puts its request into the send buffer
and completes; it leaves the core at the release. -/
def Obligations.TrapsAndPrivilege : Prop :=
  (∀ (code : Int) (p : Pair) (a b e d : Reg) (n : Fin 9) (s : State),
     let raised (t : TrapInfo) : State := s.issued.trap s.cur.core s.cur.ctx t s.cur.pc s.cur.pc s.cur.popped
     let priv (f : Form) (i : Instr) : Prop :=
       attends f s = true → Gives i s (raised ⟨2, s.cur.ip.setWidth 32, 0⟩)
     (issuesPlain {} s = true →
       Gives (.trap code) s (raised ⟨15, wInt code, 0⟩) ∧ Gives (.brk code) s (raised ⟨16, wInt code, 0⟩)) ∧
     (s.cur.ctx ≠ 7 →
       priv { a := .r a, d := .p p, also := payRegs n } (.svsend p a n) ∧
       priv { a := .r a, e := .r e, d := .p p } (.redlv p a e) ∧
       priv { a := .r a, b := .r b, e := .r e } (.stabt a b e) ∧ priv { a := .r a, b := .r b, e := .r e } (.stcmt a b e) ∧
       priv { a := .r a, e := .r e, d := .r d } (.mapw d a e))) ∧
  (∀ (p : Pair) (a b e d : Reg) (s : State),
     let quiet (v : Vals) : Prop := e = .zr ∨ v.we.getLsbD 31 = false
     let hw (v : Vals) : Option Word := if e = .zr then none else some v.we
     s.cur.ctx = 7 →
     (let f : Form := { a := .r a, e := .r e, d := .p p }
      let u := (sendOperands f s).2
      let v := (sendOperands f s).1
      let x := s.pairVal s.cur.core s.cur.ctx p
      sends f s = true → quiet v → v.wa.toNat % 128 = 0 → localOk v.wa.toNat 128 = true → (p = .zr ∨ reachable f s x) →
      Gives (.redlv p a e) s
        ((if p = .zr then u else u.noteEndpoint x).buffer (.redlv ⟨(if p = .zr then u else u.noteEndpoint x).issuer,
          if p = .zr then none else some (u.endpoint x), (u.endpointName x).1, v.wa.toNat, hw v⟩)).commit) ∧
     (let f : Form := { a := .r a, b := .r b, e := .r e }
      let u := (sendOperands f s).2
      let v := (sendOperands f s).1
      let puts (i : Instr) (abort : Bool) : Prop :=
        Gives i s (u.buffer (.decision ⟨u.issuer, u.chip, abort, BitVec.ofNat 16 v.wa.toNat, v.wb, hw v⟩)).commit
      sends f s = true → quiet v → v.wa.toNat < 65536 → puts (.stabt a b e) true ∧ puts (.stcmt a b e) false) ∧
     (let f : Form := { a := .r a, e := .r e, d := .r d }
      let u := (sendOperands f s).2
      let v := (sendOperands f s).1
      let w := v.wd.toNat
      sends f s = true → quiet v → w % 8 < 6 → w / 2 ^ 11 % 32 = 0 → (w % 8 < 2 ↔ w / 8 % 256 ≠ 0) →
      v.wa.toNat % 4 = 0 → localOk v.wa.toNat 4 = true →
      Gives (.mapw d a e) s (u.buffer (.mapw ⟨u.issuer, v.wd, v.wa.toNat, none, hw v⟩)).commit))


/-- TAKING A TRAP (R34, R35, R36, R233), of a cause other than CHK and of a context without the vector slot and without an
operation in the iterative unit: the stores that it has issued have performed (in the turn of the trap by the model's choice:
assumption 12); the context is free and its send buffer discarded; while the prefix lasts the log is unwound, else memory
stays. The unwinding takes place in the turn of the trap, or, when its accesses perform later, one write-back at a time,
newest first (R142; the two forms are the model's: assumption 66); the trigger meets its fate at its end. A restartable
trigger below REDLIM, of a cause of the first row of R35, goes back to its own slots as the first of the buffer with RCNT
raised; any other is freed with its slots. Context 7 reports to the host (R236): the record holds cause, class 0 or 1, RST,
the PC, the point of origin and the INFO words (R237). -/
def Obligations.TrapEntry : Prop :=
  ∀ (s : State) (core c : Nat) (a : Act) (x : Slot) (t : TrapInfo) (pc orig : Nat) (popped : List Word),
    let found (w : State) : Prop := (w.core core).buf.find? (fun y => y.runner == some c) = some x
    let fated (w u : State) : Prop :=
      let k := w.core core
      let again : Prop := a.open_ = true ∧ t.cause ∈ [1, 2, 3, 4, 5, 9, 10, 13, 15, 16, 17] ∧ a.trig.rcnt.toNat < k.redlim.toNat
      u.act core c = none ∧
      (again → (u.core core).buf =
        { x with msg := { x.msg with rcnt := x.msg.rcnt + 1 }, seen := 0, runner := none } ::
          k.buf.filter fun y => y.runner != some c) ∧
      (¬again → (u.core core).buf = k.buf.filter fun y => y.runner != some c) ∧
      (c = 7 → w.hostRecs.length < 1024 → ∃ ws w0 w5, u.hostRecs = w.hostRecs ++ [ws] ∧ ws.length = 26 ∧ ws[0]? = some w0 ∧
        ws[5]? = some w5 ∧ ws[6]? = some t.info0 ∧ ws[7]? = some t.info1 ∧
        (t.cause < 256 → w0.toNat % 256 = t.cause ∧ (again → w0.toNat / 2 ^ 8 % 8 = 0) ∧ (¬again → w0.toNat / 2 ^ 8 % 8 = 1) ∧
          w0.getLsbD 16 = a.open_ ∧ w0.getLsbD 18 = true ∧ w0.toNat / 2 ^ 19 = popped.length) ∧
        w5.toNat = pc % 65536 + 65536 * (orig % 65536))
    x.msg = a.trig → t.cause ≠ 7 → a.trig.long = false → popped.length ≤ 3 →
    (let w := s.flush core c
     let u := s.trap core c t pc orig popped
     w.act core c = some a → found w → (w.core core).vslot ≠ some c → (∀ op, (w.core core).iter = some op → op.ctx ≠ c) →
     (u.ctx core c).sbuf = [] ∧
     (s.cur.late = false ∨ a.open_ = false ∨ a.log = [] →
       fated w u ∧ (if a.open_ then sameBytes (w.unwind core a.log) u else sameBytes w u)) ∧
     (s.cur.late = true → a.open_ = true → a.log ≠ [] → u.act core c = none ∧ (u.ctx core c).isFree = false ∧
       (u.ctx core c).undo = some ⟨a, t, pc, orig, popped⟩ ∧ (u.core core).buf = (w.core core).buf ∧ sameBytes w u)) ∧
    (∀ (e : LogEntry) (r : List LogEntry) (i : Nat),
      (s.ctx core c).undo = some ⟨{ a with log := e :: r }, t, pc, orig, popped⟩ → s.act core c = none → found s →
      let u := s.performTurn core c i
      sameBytes (s.undo core e) u ∧ u.act core c = none ∧
      (r ≠ [] → (u.ctx core c).undo = some ⟨{ a with log := r }, t, pc, orig, popped⟩ ∧ (u.core core).buf = (s.core core).buf) ∧
      (r = [] → (u.ctx core c).undo = none ∧ fated s u))

/-- The undo log (R32, R34, R74, R75): while the prefix lasts the first store to a word logs the word's value unless it is
uncorrectable; of a store below a word one read serves the log and the merge, and a store of the whole word makes no check
(the model's reading: assumption 65); a later store to it logs nothing, and either writes the bits of its mask; unwinding gives every
logged word its logged value, without an error, and every logged line its logged sideband, and changes no other byte of
any memory. -/
def Obligations.UndoLog : Prop :=
  (∀ (s : State) (core c unit addr : Nat) (mask v : Word) (act : Act), s.act core c = some act → act.open_ = true →
    let a := addr - addr % 4
    let u := s.storeLogged core c unit addr mask v
    let log := (u.act core c).elim [] Act.log
    let sound : Prop := (s.mem (placeOf core a)).err (offsetOf a) ≠ some .uncorrectable
    (wordLogged act.log a = true → log = act.log) ∧
    (wordLogged act.log a = false → ∃ old, log = .word a old :: act.log ∧ (sound → old = s.localWord core a)) ∧
    (sound ∨ mask = 0xFFFFFFFF → u.localWord core a = (s.localWord core a &&& ~~~mask) ||| (v &&& mask)) ∧
    (mask = 0xFFFFFFFF → (∀ cl, (u.cluster cl).ceCnt = (s.cluster cl).ceCnt ∧ (u.cluster cl).ueCnt = (s.cluster cl).ueCnt) ∧
      u.rseq = s.rseq ∧ ∀ q l, (u.mem q).line l = (s.mem q).line l) ∧
    bytesBut (placeOf core a) (offsetOf a) 4 s u) ∧
  (∀ (s : State) (core : Nat) (words : List (Nat × Word)) (lines : List (Nat × Side)),
    (∀ x ∈ words, x.1 % 4 = 0 ∧ localOk x.1 4 = true) → words.Pairwise (fun x y => x.1 ≠ y.1) →
    (∀ x ∈ lines, x.1 % 128 = 0 ∧ localOk x.1 128 = true) → lines.Pairwise (fun x y => x.1 ≠ y.1) →
    let u := s.unwind core (words.map (fun x => LogEntry.word x.1 x.2) ++ lines.map fun x => LogEntry.side x.1 x.2)
    (∀ x ∈ words, u.localWord core x.1 = x.2 ∧ (u.mem (placeOf core x.1)).err (offsetOf x.1) = none) ∧
    (∀ x ∈ lines, u.localSide core x.1 = x.2) ∧
    ∀ q y, (∀ x ∈ words, ¬(q = placeOf core x.1 ∧ offsetOf x.1 ≤ y ∧ y < offsetOf x.1 + 4)) →
      (u.mem q).byte y = (s.mem q).byte y)

/-! ## Frames -/

/-- What the instructions that write one register, or one pair, leave alone: every other register g0 to g15 and lk of the
context, its pointers, strides and CYCLE latch, FFLAGS but for the flags that a floating-point instruction adds, every
register of every other context, every byte of memory but for the loads and stores of the context that a port makes perform first
(R130) or, of a load, that are of its words (R127); and, when they name no port, every control register, accumulator, buffer,
queue and special register of the machine (but the cluster's generator of FCVT in mode SR: R156, R157), and of every activation
all but the PC. The loads also leave every pointer but their own, which P = 1 advances. -/
def Obligations.RegisterFrames : Prop :=
  ∀ (d a b : Reg) (q : Pair) (imm : Int) (n : Nat) (k : Fin 8) (p : PtrNo) (stride sat : Bool) (r : Rnd) (to_ from_ : Fmt)
      (m : MemOp) (s t : State),
    let core := s.cur.core
    let c := s.cur.ctx
    let pair := (pairRegs q).map Reg.g
    let others (ds : List Reg) (w : State) : Prop := registersBut ds w t ∧ otherContexts s t ∧ sameBytes w t ∧
      (t.ctx core c).ps = (s.ctx core c).ps ∧ (t.ctx core c).chi = (s.ctx core c).chi ∧ pcNext s t
    let quiet : Prop := (t.ctx core c).fflags = (s.ctx core c).fflags
    let adds : Prop := ∃ fl, (t.ctx core c).fflags = (s.ctx core c).fflags ||| fl
    let keeps (ds : List Reg) (f : Form) (flags : Prop) (i : Instr) : Prop := issuesPlain f s = true → Gives i s t →
      others ds (afterStores (portSeal f s) f s) ∧ (t.ctx core c).pa = (s.ctx core c).pa ∧ flags
    let all (ds : List Reg) (f : Form) (flags : Prop) (i : Instr) : Prop := keeps ds f flags i ∧
      (issuesPlain f s = true → Gives i s t → f.ports = false → specialsSame s t)
    let ab : Form := { a := .r a, b := .r b, dst := .r d }
    let a1 : Form := { a := .r a, dst := .r d }
    (∀ i ∈ [Instr.add d a b, .sub d a b, .and d a b, .or d a b, .xor d a b, .shl d a b, .shr d a b, .sra d a b, .mul d a b,
        .mulh d a b, .mulhu d a b, .min d a b, .max d a b, .minu d a b, .maxu d a b, .slt d a b, .sltu d a b, .seq d a b],
      all [d] ab quiet i) ∧
    (∀ i ∈ [Instr.clz d a, .popc d a, .bfx d a n, .addi d a imm, .andi d a imm, .ori d a imm, .xori d a imm, .shli d a n,
        .shri d a n, .srai d a n, .slti d a imm], all [d] a1 quiet i) ∧
    (all [d] { a := .r a, b := .r b, d := .r d, dst := .r d } quiet (.sel d a b) ∧
      all [d] { a := .r a, d := .r d, dst := .r d } quiet (.bfi d a n) ∧
      all [d] { d := .r d, dst := .r d } quiet (.ldhi d imm) ∧
      ∀ i ∈ [Instr.ldi d imm, .geth d k, .pget d p stride], all [d] { dst := .r d } quiet i) ∧
    (∀ i ∈ [Instr.fadd d a b r, .fsub d a b r, .fmul d a b r, .fmin d a b, .fmax d a b, .feq d a b, .flt d a b, .fle d a b],
      all [d] ab adds i) ∧
    all [d] { a := .r a, b := .r b, d := .r d, dst := .r d } adds (.ffma d a b r) ∧
    (∀ i ∈ [Instr.fclass d a, .ftoi d a r sat, .itof d a r sat], all [d] a1 adds i) ∧
    keeps [d] a1 adds (.fcvt d a r sat to_ from_) ∧ (r ≠ .sr → all [d] a1 adds (.fcvt d a r sat to_ from_)) ∧
    (∀ i ∈ [Instr.twosum q a b, .twoprod q a b], all pair { a := .r a, b := .r b, dst := .p q } adds i) ∧
    (let moved : Prop := (t.ctx core c).pa = (if m.post then ((s.ctx core c).bump m.p).pa else (s.ctx core c).pa)
     let loads (i : Instr) (n : Nat) (acq : Bool) : Prop :=
       let f : Form := { dst := .r d }
       let u := (operandsPlain f s).2
       let w := if acq then u.acquire core c else u
       let ad := (u.ea m n).toNat
       let v := settledFor w core c ad
       issuesPlain f s = true → Gives i s t → unviewed w core c ad = true → loadable v core ad n = true →
       (acq = true → u.isFull core ad = true) →
       others [d] (if f.dst.port.isSome then v.flush core c else v) ∧ quiet ∧ moved
     loads (.ldw d m) 4 false ∧ loads (.lds d m) 4 true ∧ loads (.ldh d m) 2 false ∧ loads (.ldhu d m) 2 false ∧
     loads (.ldb d m) 1 false ∧ loads (.ldbu d m) 1 false ∧
     (let ad := (s.ea m 8).toNat
      let v := settledFor (settledFor s core c ad) core c (ad + 4)
      issuesPlain { dst := .p q } s = true → Gives (.ldd q m) s t → ad % 8 = 0 → localOk ad 8 = true →
      unviewed s core c ad = true → unviewed s core c (ad + 4) = true →
      loadable (settledFor s core c ad) core ad 4 = true → loadable v core (ad + 4) 4 = true →
      others pair v ∧ quiet ∧ moved))

/-! ## Reset and invariants -/

/-- What chip reset leaves (R61, R63, R65, R82, R87, R94, R158, R172, R192, R241, R245, R247, R266, R269, R273): the values
that the spec gives, and every memory in the canonical form (the model's own: assumption 1). -/
def Obligations.ResetState : Prop :=
  let s := State.reset
  (∀ cl, (s.cluster cl).power = .off ∧ (s.cluster cl).clthr = 8 ∧ (s.cluster cl).ceCnt = 0 ∧ (s.cluster cl).ceThr = 256 ∧
    (s.cluster cl).ueCnt = 0 ∧ (s.cluster cl).mxq = [] ∧ (s.cluster cl).cpq = [] ∧
    ∀ w ∈ (s.cluster cl).wins.toList, w.en = false) ∧
  (∀ core, (s.core core).pkey = 0 ∧ (s.core core).buddef = 0x100000 ∧ (s.core core).budmax = 0x10000000 ∧
    (s.core core).redlim = 2 ∧ (s.core core).mxretry = 3 ∧ (s.core core).vweight = 1 ∧ (s.core core).stquota = 1 ∧
    (s.core core).stallmax = 1000 ∧ (s.core core).chkcnt = 0 ∧ (s.core core).qctx = 1 ∧ (s.core core).qdir = 0 ∧
    (s.core core).fqEn = false ∧ (s.core core).fqCnt = 0 ∧ (s.core core).mlim = 1024 ∧ (s.core core).tlim = 2 ∧
    (s.core core).tcnt = 0 ∧ (s.core core).ret = false ∧ (s.core core).seq = 0 ∧ (s.core core).buf = [] ∧
    (s.core core).vslot = none) ∧
  (∀ core c, s.act core c = none ∧ (s.ctx core c).fflags = 0 ∧ ∀ q ∈ (s.ctx core c).inq.toList, q = []) ∧
  (∀ i, (s.station i).entries = []) ∧ (∀ pid, (s.domain pid).c = -1) ∧ s.host.watt = 900 ∧ s.host.stage = 1 ∧
  s.host.booted = false ∧ s.live = [] ∧ s.net = [] ∧ s.stores = [] ∧ s.reads = [] ∧ ∀ p, (s.mem p).wf


/-! ## Operations and events of the device: the cores -/

/-- MESSAGE_ARRIVAL, SUMP_RETURN and SUPERVISOR_QUEUE_WRITE (R18, R19, R25, R220, R242, R263). A message that nothing in the
mesh must precede reaches the host port, the distributor, or a core: with the core's key it enters the arrival buffer, or
the message sump of the die when its cluster is OFF, also when it is relocatable (R266), its stream has entries there or no slot is free; with another key it
goes on to the supervisor endpoint of its PID with DIV set, where the tables hold no error; one that the sump's quota refuses leaves a record of cause 12 that
goes there (R20), of class 1 by the model's reading (assumption 55). The sump returns the oldest entry of a core that has slots; that the messages which keep their order
in the mesh are those of one stream, and AM* and TDEC commands of one core (R24, R137), is the model's reading (assumption 57;
in the sump: assumption 68). A record that waits for the supervisor queue becomes its next line, and no other byte of memory
changes. -/
def Obligations.MessageArrivals : Prop :=
  (∀ (l r : List Msg) (m : Msg) (s : State),
    let core := m.dcore.toNat
    let die := dieOfCore core
    let u : State := { s with net := l ++ r }
    let i : Instr := .messageArrival l.length
    let waits : Prop := (s.cluster (clusterOf core)).power = .off ∨ s.streamSpilled core m = true ∨ s.slotRoom core m = false
    s.net = l ++ m :: r → (∀ n ∈ l, State.keepsOrder n m = false) →
    (m.dcore = 0xFFFD → Gives i s { u with hostOut := u.hostOut ++ [.msg m] }) ∧
    (m.dcore = 0xFFFF → m.kind ≠ 5 → Gives i s { u with dist := { u.dist with inbox := u.dist.inbox ++ [m] } }) ∧
    (core < 40960 → m.dkey = (s.core core).pkey → m.kind.toNat < 5 → ((s.cluster (clusterOf core)).power = .off ∨ s.relocates core m = none) →
      (¬waits → Gives i s (u.updCore core fun k => { k with buf := k.buf ++ [⟨m, s.now, none, false⟩] })) ∧
      (waits → s.sumpUsed die + m.sumpBytes ≤ (s.die die).sumpQuota →
        Gives i s (u.updDie die fun x => { x with sump := x.sump ++ [⟨core, s.now, m⟩] })) ∧
      (waits → (s.die die).sumpQuota < s.sumpUsed die + m.sumpBytes → m.div = false → m.isRecord = false → m.long = false →
        ∀ c k, s.supervisorOf m.pid = .here c k →
        ∃ t x ws, Gives i s t ∧ t.net = u.net ++ [x] ∧ x.dcore = c ∧ x.dkey = k ∧ x.kind = 4 ∧ x.nw = 26 ∧ x.pid = m.pid ∧
          x.body = w32 (12 + 2 ^ 8) :: ws ∧ (t.core core).buf = (s.core core).buf ∧ (t.die die).sump = (s.die die).sump ∧
          sameBytes s t)) ∧
    (core < 40960 → m.dkey ≠ (s.core core).pkey → m.div = false → m.isRecord = false → s.gmem.errs = [] → s.mapValid m.pid = true →
      (s.mapSv m.pid).1 ≠ 0xFFFF →
      ∀ c k, s.resolve m.pid (s.mapSv m.pid).1 (s.mapSv m.pid).2 = .here c k →
      Gives i s { u with net := u.net ++ [{ m with
        div := true, old0 := m.h0, old1 := m.h1, dcore := c, dkey := k, dchip := s.chip }] })) ∧
  (∀ (s : State) (die core : Nat) (l r : List Spilled) (e : Spilled),
    (s.die die).sump = l ++ e :: r → e.core = core → dieOfCore core = die → (s.cluster (clusterOf core)).power ≠ .off →
    (∀ x ∈ l, x.core ≠ core) → (∀ x ∈ r, x.core = core → x.msg.ans = e.msg.ans) → e.msg.dkey = (s.core core).pkey →
    s.slotRoom core e.msg = true →
    Gives (.sumpReturn die core) s ((s.updDie die fun x => { x with sump := l ++ r }).updCore core fun k =>
      { k with buf := k.buf ++ [⟨e.msg, e.seen, none, false⟩] })) ∧
  (∀ (s : State) (core : Nat) (x : Slot),
    let k := s.core core
    let cl := clusterOf core
    let n := k.fqNlm1.toNat + 1
    let line := k.fqBase.toNat + k.fqTail.toNat
    (s.cluster cl).power ≠ .off → k.fqEn = true → k.fqBase.toNat + n ≤ 4096 → k.fqCnt.toNat < n →
    k.buf.find? Slot.forQueue = some x → x.msg.isRecord = true → x.msg.body.length = 26 →
    ∃ t y, Gives (.supervisorQueueWrite core) s t ∧ (t.mem (.spad cl)).words (128 * line) 26 = x.msg.body ∧
      (t.mem (.spad cl)).word (128 * line + 104) = k.ringSeq ∧ (t.mem (.spad cl)).word (128 * line + 108) = w32 (s.cycle core) ∧
      (t.mem (.spad cl)).line line = ⟨true, false⟩ ∧ bytesBut (.spad cl) (128 * line) 128 s t ∧
      (t.core core).fqTail.toNat = (k.fqTail.toNat + 1) % n ∧ (t.core core).fqCnt.toNat = k.fqCnt.toNat + 1 ∧
      (t.core core).ringSeq = k.ringSeq + 1 ∧ (t.core core).buf = dropFirst (fun z => z == x) k.buf ++ [y] ∧
      y.line = true ∧ y.runner = none ∧ y.msg.entry = k.fqEntry ∧ y.msg.prio = k.fqPrio ∧ y.msg.seq = k.ringSeq ∧
      y.msg.nw = 2 ∧ y.msg.body = [w32 (0x100000 + 128 * line), x.msg.body.getD 0 0])

/-- DISPATCH (R21, R22, R23, R26): a core that may dispatch and has a free context starts the entry that no other ready one
precedes by its priority and then its age, at the parcel of H4, restartable, with an empty log and the budget of R26. A
call gets its payload from g8 on, zeros in g0 to g7, p0 to p6 and lk, and p7 at its stack area; a continuation the
registers that it carries. A user-bound message whose step lies 1 to 32,767 ahead is held. -/
def Obligations.Dispatches : Prop :=
  (∀ (s : State) (core c : Nat) (sup : Bool) (x : Slot),
    let k := s.core core
    let ready := k.buf.filter (if sup then supTakes s core else Slot.userReady k.s)
    (sup = true → supOpen s core = true ∧ c = 7 ∧ (s.ctx core 7).isFree = true) →
    (sup = false → userOpen s core = true ∧ [1, 2, 3, 4, 5, 6].find? (fun c => (s.ctx core c).isFree) = some c) →
    chooseSlot ready = some x →
    (∀ y ∈ ready, y.msg.prio.toNat ≤ x.msg.prio.toNat ∧ (y.msg.prio = x.msg.prio → x.seen ≤ y.seen)) ∧
    ∃ t a, Gives (.dispatch core sup) s t ∧ t.act core c = some a ∧ a.pc = x.msg.entry.toNat ∧ a.trig = x.msg ∧
      a.open_ = true ∧ a.log = [] ∧ a.steps = 0 ∧ a.reads = [] ∧ a.deadline = s.now + a.loaded ∧
      (x.msg.kind ≠ 4 → a.loaded = min k.buddef.toNat k.budmax.toNat) ∧ sameBytes s t ∧
      (∃ y ∈ (t.core core).buf, y.msg = x.msg ∧ y.runner = some c) ∧
      (t.ctx core c).chi = 0 ∧ (∀ i : Fin 8, (t.ctx core c).ps[i] = if i.val = 7 then -4 else 0) ∧
      (x.msg.kind ≠ 1 →
        (∀ i : Fin 16, (t.ctx core c).g[i] = if i.val < 8 then 0 else x.msg.pay (i.val - 8)) ∧
        (∀ i : Fin 8, (t.ctx core c).pa[i] = if i.val = 7 then w32 (0x5FFC - 512 * (7 - c)) else 0) ∧
        (t.ctx core c).lk = 0 ∧ (t.ctx core c).fflags = 0) ∧
      (x.msg.kind = 1 →
        (∀ i : Fin 16, (t.ctx core c).g[i] = x.msg.pay i.val) ∧ (∀ i : Fin 8, (t.ctx core c).pa[i] = x.msg.pay (16 + i.val)) ∧
        (t.ctx core c).lk = x.msg.pay 24 ∧ (t.ctx core c).fflags.toNat = (x.msg.pay 25).toNat % 32)) ∧
  (∀ (step : BitVec 64) (x : Slot),
    let ahead := (x.msg.stag.toNat + 65536 - step.toNat % 65536) % 65536
    x.runner = none → x.line = false → x.msg.forUser = true →
    (x.userReady step = false ↔ 1 ≤ ahead ∧ ahead ≤ 32767))

/-- The events of a context and of its ports (R28, R30, R48, R57, R58, R96, R188, R319), and its stores and loads that
perform at another time than they issue (R125, R127, R129, R130; the turns that let them are the model's own: assumption 12).
A budget that has run out raises BUDGET with the loaded value in INFO1, and the record holds the port words that a stream has
popped (R59). A release that had stopped, and those that wait behind it, hand their entries on in program order, each after
the stores of its context and the vector memory instructions before it (R139); then a pending STEP takes effect, and an
activation that has ended is gone. The iterative unit writes its result and ORs its flags. A port word reaches the end of its
queue in push order; a place comes back to the writer; a word that meets a full queue is kept, and a count of places ends at 0
(the model's: assumption 69). In a turn that defers them, a store and the two words of an STD stay with the context, behind its
stores to the TCM when they go there (R128); each performs at its own time, after the earlier ones to its word, a vector store
with its poison; a load that has issued puts the word as it stands into its register, after the earlier ones of its word, and the word as it
stood at its issue where an error or poison has come up since; a release makes all perform. A word of the scratchpad, or of the
TCM one of the LDD that comes next or the next operand of the element in hand of the context's stream, may be read ahead, and
the load that names it takes what was read; an acquire drops what was read ahead. -/
def Obligations.ContextEvents : Prop :=
  (∀ (s : State) (core c : Nat) (a : Act), s.act core c = some a → a.deadline ≤ s.now →
    (s.cluster (clusterOf core)).power = .on →
    let popped : List Word := match (s.core core).stream with
      | some r => if r.ctx = c then r.popped else []
      | none => []
    Gives (.budgetExpiry core c) s (s.trap core c ⟨6, 0, w32 a.loaded⟩ a.pc a.pc popped)) ∧
  (∀ (s : State) (core c : Nat), (s.cluster (clusterOf core)).power = .on →
    let x := s.ctx core c
    let l := x.handing ++ x.waiting.flatten
    let w := if x.waiting = [] then s else s.flush core c
    let goes (t : State) : Prop := (t.ctx core c).handing = [] ∧ (t.ctx core c).waiting = [] ∧ handedOn core l w t ∧ sameBytes w t ∧
      (t.core core).vq = (s.core core).vq.map fun e =>
        if e.ctx = c then { e with after := e.after - x.waiting.length } else e
    let quiet : Prop := ∀ a, s.act core c = some a → a.open_ = true ∧ a.ending = false
    (s.releaseWaits core c = false → (x.handing = [] ∨ x.waiting = [] ∨ x.lateStores = []) → released w core l →
      (quiet → ∃ t : State, Gives (.releaseResume core c) s t ∧ goes t) ∧
      (∀ a : Act, s.act core c = some a → a.ending = true → a.steps = 0 → (s.core core).vslot ≠ some c →
        ∃ t : State, Gives (.releaseResume core c) s t ∧ t.act core c = none ∧ goes t ∧
          ∀ x ∈ (t.core core).buf, x.runner ≠ some c)) ∧
    (∀ m r, x.handing = [] → x.waiting = m :: r → quiet →
      (∃ e ∈ (s.core core).vq, e.ctx = c ∧ e.after = 0 ∧ memPending e = true) → Gives (.releaseResume core c) s s) ∧
    (∀ a : Act, s.act core c = some a → x.handing = [] → x.waiting = [] → a.ending = false → a.open_ = false → a.steps = 1 →
      s.stepReady core = true →
      ∃ t : State, Gives (.releaseResume core c) s t ∧ t.pendingSteps core c = 0 ∧
        ((s.core core).k + 1 = (s.core core).q → (t.core core).s = (s.core core).s + 1) ∧
        ((s.core core).k + 1 ≠ (s.core core).q → (t.core core).s = (s.core core).s ∧ (t.core core).k = (s.core core).k + 1))) ∧
  (∀ (s : State) (core : Nat) (op : IterOp), (s.core core).iter = some op →
    ∃ t : State, Gives (.iterativeCommit core) s t ∧ (t.core core).iter = none ∧
      (∀ n, op.dst = .g n → (t.ctx core op.ctx).g[n] = op.res) ∧ (op.dst = .lk → (t.ctx core op.ctx).lk = op.res) ∧
      (t.ctx core op.ctx).fflags = (s.ctx core op.ctx).fflags ||| op.flags ∧
      ((∀ d, op.dst = .port d → neighbour core d = none) →
        (∀ n : Fin 16, op.dst ≠ .g n → (t.ctx core op.ctx).g[n] = (s.ctx core op.ctx).g[n]) ∧ sameBytes s t) ∧
      ∀ d k, op.dst = .port d → neighbour core d = some k →
        t.portWords = s.portWords ++ [⟨8 * k + op.ctx, d.back, op.res⟩] ∧ sameBytes (s.flush core op.ctx) t ∧
        (t.ctx core op.ctx).g = ((s.flush core op.ctx).ctx core op.ctx).g) ∧
  (∀ (s : State) (l r : List PortWord) (w : PortWord), s.portWords = l ++ w :: r →
    (∀ v ∈ l, ¬(v.ctx = w.ctx ∧ v.dir = w.dir)) → (s.cluster (clusterOf (w.ctx / 8))).power ≠ .off →
    Gives (.portWordArrival l.length) s
      (({ s with portWords := l ++ r } : State).updCtx (w.ctx / 8) (w.ctx % 8) fun x =>
        { x with inq := x.inq.set w.dir.idx.val (x.inq[w.dir.idx] ++ [w.word]) w.dir.idx.isLt })) ∧
  (∀ (s : State) (l r : List PortPlace) (p : PortPlace), s.portPlaces = l ++ p :: r →
    Gives (.portPlaceReturn l.length) s
      (({ s with portPlaces := l ++ r } : State).updCtx (p.ctx / 8) (p.ctx % 8) fun x =>
        { x with outq := x.outq.set p.dir.idx.val (x.outq[p.dir.idx] - 1) p.dir.idx.isLt })) ∧
  (∀ (d : Reg) (p : Pair) (m : MemOp) (s : State),
    let core := s.cur.core
    let c := s.cur.ctx
    let later (w t : State) (l : List LateStore) : Prop := sameBytes w t ∧ registersBut [] w t ∧ otherContexts s t ∧ pcNext s t ∧
      (t.ctx core c).lateStores = (w.ctx core c).lateStores ++ l ∧ ∀ x ∈ l, ∀ v ∈ (t.ctx core c).views, v.addr ≠ x.addr
    s.cur.late = true →
    (∀ n ∈ [4, 2, 1],
      let a := (s.ea m n).toNat
      let f : Form := { d := .r d }
      let must := s.isOpen core c && (s.wordsFull core c [a - a % 4] || f.ports)
      let w := ((operands must f s).2.awaitTcm core c a).settleLoads core c fun x => x.addr == a - a % 4
      let v := (operands must f s).1.wd.toNat
      issues must f s = true → a % n = 0 → localOk a n = true →
      ∃ t : State, Gives (if n = 4 then .stw d m else if n = 2 then .sth d m else .stb d m) s t ∧
        later w t [⟨a - a % 4, w32 ((2 ^ (8 * n) - 1) * 2 ^ (8 * (a % 4))), w32 (v * 2 ^ (8 * (a % 4))), .scalar, false⟩]) ∧
    (let a := (s.ea m 8).toNat
     let f : Form := { d := .p p }
     let must := s.isOpen core c && s.wordsFull core c [a, a + 4]
     let w := (((operands must f s).2.awaitTcm core c a).settleLoads core c fun x => x.addr == a).settleLoads core c
       fun x => x.addr == a + 4
     issues must f s = true → a % 8 = 0 → localOk a 8 = true →
     ∃ t : State, Gives (.std p m) s t ∧ later w t [⟨a, 0xFFFFFFFF, (s.pairVal core c p).1, .scalar, false⟩,
       ⟨a + 4, 0xFFFFFFFF, (s.pairVal core c p).2, .scalar, false⟩])) ∧
  (∀ (s : State) (core c i : Nat) (x : LateStore) (r : List Turn),
    let turn := Turn.perform core c i
    let u : State := { turnStart (some turn) s with turns := r }
    let l := (u.ctx core c).lateStores
    let first (y : LateStore) : Prop := y.addr = x.addr ∧ (y.kind = .vector ↔ x.kind = .vector)
    s.turns = turn :: r → (u.ctx core c).undo = none → l[i]? = some x → x.addr % 4 = 0 →
    ((∀ y ∈ l.take i, ¬first y) →
      ((u.mem (placeOf core x.addr)).err (offsetOf x.addr) ≠ some .uncorrectable ∨ x.mask = 0xFFFFFFFF) →
      ∃ t : State, step s = .next t ∧ (t.ctx core c).lateStores = l.eraseIdx i ∧ bytesBut (placeOf core x.addr) (offsetOf x.addr) 4 u t ∧
        t.localWord core x.addr = (u.localWord core x.addr &&& ~~~x.mask) ||| (x.val &&& x.mask) ∧
        (t.localSide core x.addr).fe = (u.localSide core x.addr).fe ∧
        (t.localSide core x.addr).p = ((u.localSide core x.addr).p || (x.kind == .vector && x.p))) ∧
    ((∃ y ∈ l.take i, first y) → step s = .next u)) ∧
  (∀ (s : State) (core c i j : Nat) (x : LateLoad) (r : List Turn),
    let turn := Turn.perform core c i
    let u : State := { turnStart (some turn) s with turns := r }
    let l := (u.ctx core c).lateLoads
    s.turns = turn :: r → (u.ctx core c).undo = none → i = (u.ctx core c).lateStores.length + j → l[j]? = some x →
    ((∀ y ∈ l.take j, y.addr ≠ x.addr) →
      ∃ t : State, step s = .next t ∧ (t.ctx core c).lateLoads = l.eraseIdx j ∧ sameBytes u t ∧
        (∀ n : Fin 16, x.dst ≠ .g n → (t.ctx core c).g[n] = (u.ctx core c).g[n]) ∧
        (∀ n, x.dst = .g n → u.poisoned core x.addr = false → (u.mem (placeOf core x.addr)).err (offsetOf x.addr) = none →
          (t.ctx core c).g[n] = x.part.of (u.localWord core x.addr) x.at_) ∧
        (∀ n, x.dst = .g n → (u.poisoned core x.addr = true ∨ (u.mem (placeOf core x.addr)).err (offsetOf x.addr) ≠ none) →
          (t.ctx core c).g[n] = x.part.of x.val x.at_)) ∧
    ((∃ y ∈ l.take j, y.addr = x.addr) → step s = .next u)) ∧
  (∀ (s : State) (core c : Nat),
    let l := (s.ctx core c).lateStores
    let t := s.flush core c
    (t.ctx core c).lateStores = [] ∧ (t.ctx core c).lateLoads = [] ∧
    (∀ x n, (s.ctx core c).lateLoads = [x] → x.dst = .g n → s.poisoned core x.addr = false →
      (s.mem (placeOf core x.addr)).err (offsetOf x.addr) = none →
      (t.ctx core c).g[n] = x.part.of (s.localWord core x.addr) x.at_) ∧ ((s.acquire core c).ctx core c).views = [] ∧ sameBytes s (s.acquire core c) ∧
    ((∀ x ∈ l, x.addr % 4 = 0 ∧ localOk x.addr 4 = true ∧ (s.mem (placeOf core x.addr)).err (offsetOf x.addr) ≠ some .uncorrectable) →
      l.Pairwise (fun x y => x.addr ≠ y.addr) →
      (∀ x ∈ l, t.localWord core x.addr = (s.localWord core x.addr &&& ~~~x.mask) ||| (x.val &&& x.mask)) ∧
      ∀ q y, (∀ x ∈ l, ¬(q = placeOf core x.addr ∧ offsetOf x.addr ≤ y ∧ y < offsetOf x.addr + 4)) →
        (t.mem q).byte y = (s.mem q).byte y)) ∧
  (∀ (s : State) (core c a : Nat) (r : List Turn) (act : Act),
    let turn := Turn.readAhead core c a
    let u : State := { turnStart (some turn) s with turns := r }
    let x := u.ctx core c
    let tcmFree : Prop := ∀ y ∈ x.lateStores, y.kind ≠ .vector → 0x100000 ≤ y.addr
    let comesNext : Prop := u.streaming core c = false ∧
      ∃ p m n, decode (u.parcelsAt core act.pc) = .ok (.ldd p m, n) ∧
        let ea := (x.pa[m.p] + wInt (m.off * 8)).toNat
        ea ≤ a ∧ a < ea + 8
    let streamed : Prop := ∃ q before after, (u.core core).stream = some q ∧ q.ctx = c ∧
      q.sources.map (fun p => (x.pa[p]).toNat) = before ++ a :: after ∧
      ∀ b ∈ before, 0x100000 ≤ b ∨ ∃ y ∈ x.views, y.addr = b
    s.turns = turn :: r → u.act core c = some act → a % 4 = 0 → localOk a 4 = true → (0x100000 ≤ a ∨ (tcmFree ∧ (comesNext ∨ streamed))) →
    (∀ y ∈ x.views, y.addr ≠ a) → (∀ y ∈ x.lateLoads, y.addr ≠ a) → (∀ y ∈ x.lateStores, y.kind ≠ .vector → y.addr ≠ a) →
    (u.mem (placeOf core a)).err (offsetOf a) = none →
    step s = .next (u.updCtx core c fun x => { x with views := x.views ++ [⟨a, u.localWord core a, u.poisoned core a⟩] })) ∧
  (∀ (d : Reg) (m : MemOp) (s : State) (v : Word),
    let core := s.cur.core
    let c := s.cur.ctx
    let f : Form := { dst := .r d }
    let u := (operandsPlain f s).2
    let a := (u.ea m 4).toNat
    issuesPlain f s = true → a % 4 = 0 → localOk a 4 = true → (u.ctx core c).views = [⟨a, v, false⟩] →
    Gives (.ldw d m) s (((u.updCtx core c fun x => { x with views := [] }).write d v).post m).commit)

/-- The service thread (R42, R43, R44, R302), when context 0 is ready (R45): the oldest command of the arrival buffer. An atomic on a word without an error
in a line without poison writes the new value of its opcode, no other byte changes, and its reply carries the old value and
status 0 to the sender, where the tables hold no error; a decrement lowers COUNT, and a COUNT that comes to 0 from above fires the stored message: the core
sends it to itself under its next number, behind what it has sent itself before (R24). -/
def Obligations.ServiceThread : Prop :=
  ∀ (s : State) (core : Nat) (x : Slot),
    let m := x.msg
    nextService s core = some x → serviceReady s core = true →
    (let a := (m.pay 1).toNat
     let old := s.localWord core a
     let v := m.pay 2
     let does (op : Nat) (new : Word) : Prop := (m.pay 0).toNat = op →
       ∃ t : State, Gives (.atomicAtOwner core) s t ∧ t.localWord core a = new ∧ bytesBut (placeOf core a) (offsetOf a) 4 s t ∧
         (t.core core).buf = dropFirst (fun y => y == x) (s.core core).buf ∧
         (m.pay 4 = 0x80000000 → t.net = s.net) ∧
         (m.pay 4 ≠ 0x80000000 → s.gmem.errs = [] → ∀ c k, s.resolve m.pid m.score m.schip = .here c k →
           ∃ r, t.net = s.net ++ [r] ∧ r.body = [old, 0] ∧ r.ans = true ∧ r.dcore = c ∧ r.dkey = k ∧ r.stag = m.stag ∧
             r.entry.toNat = (m.pay 4).toNat % 65536)
     m.kind = 2 → a % 4 = 0 → localOk a 4 = true → s.poisoned core a = false →
     (s.mem (placeOf core a)).err (offsetOf a) = none →
     does 0x18 (old + v) ∧ does 0x19 v ∧ does 0x1A (if old = m.pay 3 then v else old) ∧
     does 0x1B (if old.toInt < v.toInt then v else old) ∧ does 0x1C (if v.toInt < old.toInt then v else old) ∧
     does 0x1D (old ||| v) ∧ does 0x1E (old &&& v)) ∧
    (let a := (m.pay 0).toNat
     let new := s.localWord core a - m.pay 1
     m.kind = 3 → a % 16 = 0 → a + 48 ≤ 0x6000 → (∀ i, i < 12 → (s.mem (.tcm core)).err (a + 4 * i) = none) →
     (¬(0 < (s.localWord core a).toInt ∧ new = 0) → 0 ≤ new.toInt →
       ∃ t : State, Gives (.taskDecrement core) s t ∧ t.localWord core a = new ∧ bytesBut (.tcm core) a 4 s t ∧
         (t.core core).buf = dropFirst (fun y => y == x) (s.core core).buf ∧ t.net = s.net) ∧
     (0 < (s.localWord core a).toInt → new = 0 → (s.localWord core (a + 8)).toNat % 16 ≤ 8 →
       ∃ (t : State) (f : Msg), Gives (.taskDecrement core) s t ∧ t.net = s.net ++ [f] ∧ t.localWord core a = 0 ∧
         bytesBut (.tcm core) a 4 s t ∧ f.dcore.toNat = core % 65536 ∧ f.dkey = (s.core core).pkey ∧ f.dchip = s.chip ∧
         f.score = (s.core core).lcore ∧ f.seq = (s.core core).seq ∧ (t.core core).seq = (s.core core).seq + 1 ∧ f.kind = 0 ∧ f.body = (List.range ((s.localWord core (a + 8)).toNat % 16)).map (fun i => s.localWord core (a + 16 + 4 * i)) ∧
         f.entry.toNat = (s.localWord core (a + 4)).toNat % 65536 ∧ f.ans = (s.localWord core (a + 4)).getLsbD 22 ∧
         f.pid = (s.core core).pid))

/-- STREAM_ELEMENT, PASS_GRANT and VECTOR_RESULT_WRITE. An element of a stream (R55, R380) reads its sources, writes its one
word, and advances each of its pointers once, and no other; INT32 results are taken modulo 2^32, or with SAT the nearest INT32;
after the last element the PC goes to the successor and the flags of all elements are ORed into FFLAGS; a misaligned address
raises ALIGN with the address and the element's index, and the record holds the port word of the count (R59). A pass (R195) gives
each of its lanes the result of R171, R398 to R406, with the poison of R199, and ORs their flags; a load gives each lane its
element of the packed array, with the poison of its line, and a lane that R409 leaves unread 0 with poison; a store writes the
elements of its lanes and no other bit of local memory, and ORs their poison into the lines (R71, R408, R409). In a turn that
defers them (the model's own: assumption 12) the accesses follow one by one (R125). A pass with two mismatches fails and takes no
draws (R201; the draws are the model's reading: assumption 84). The oldest instruction whose passes have ended writes its lanes
and no other (R194, R198), or its register (R170, R404, R406: the tree of R170, the count of poisoned lanes with X = 1), and
sends event 43 of a scatter; VMVG of a poisoned lane, and VRSUM and VRMAX with X = 0 of one, raise UE with the lane in INFO1, also where the
instruction has failed its check, which else raises CHK (R201, R234); the first instruction not issued has the PC (R394). -/
def Obligations.StreamsAndPasses : Prop :=
  (∀ (s : State) (core : Nat) (r : StreamRun) (act : Act),
    let x := s.ctx core r.ctx
    let a := x.pa[r.a].toNat
    let b := x.pa[r.b].toNat
    let d := x.pa[r.d].toNat
    let clean (w : Nat) : Prop := w % 4 = 0 ∧ localOk w 4 = true ∧ s.poisoned core w = false ∧
      (s.mem (placeOf core w)).err (offsetOf w) = none
    let int (sat : Bool) (z : ℤ) : FRes := (wInt (if sat then max (-2 ^ 31) (min (2 ^ 31 - 1) z) else z), 0)
    let does (op : StreamOp) (srcs : List Nat) (v : FRes) : Prop := r.op = op → (∀ w ∈ srcs, clean w) →
      ∃ t : State, Gives (.streamElement core) s t ∧
        (s.cur.late = false → t.localWord core d = v.1 ∧ bytesBut (placeOf core d) (offsetOf d) 4 s t ∧
          (t.ctx core r.ctx).lateStores = []) ∧
        (s.cur.late = true → sameBytes s t ∧ (t.ctx core r.ctx).lateStores = [⟨d, 0xFFFFFFFF, v.1, .stream, false⟩]) ∧
        (r.i + 1 = r.n → (t.core core).stream = none ∧ (t.act core r.ctx).map Act.pc = some r.next ∧
          (t.ctx core r.ctx).fflags = x.fflags ||| (r.flags ||| v.2)) ∧
        (r.i + 1 ≠ r.n → (t.core core).stream = some { r with i := r.i + 1, flags := r.flags ||| v.2 } ∧
          (t.act core r.ctx).map Act.pc = some act.pc ∧ (t.ctx core r.ctx).fflags = x.fflags) ∧
        (t.ctx core r.ctx).g = x.g ∧ (t.ctx core r.ctx).lk = x.lk ∧ (t.ctx core r.ctx).ps = x.ps ∧
        ∀ p : PtrNo, (t.ctx core r.ctx).pa[p] =
          if p ∈ [r.d, r.a, r.b] then x.pa[p] + (x.ps[p]).signExtend 32 else x.pa[p]
    (s.core core).stream = some r → s.act core r.ctx = some act → s.stepBlocked core r.ctx = false →
    (r.op = .scpy → r.b = r.a) →
    (∀ p, p ∈ [r.d, r.a, r.b] → x.pa[p].toNat % 4 ≠ 0 → (∀ q, q ∈ [r.d, r.a, r.b] → q ≠ p → x.pa[q].toNat % 4 = 0) →
      (∀ y ∈ x.lateStores, y.kind ≠ .stream) →
      Gives (.streamElement core) s (s.trap core r.ctx ⟨4, x.pa[p], w32 r.i⟩ act.pc act.pc r.popped)) ∧
    (s.wordsFull core r.ctx [d] = false → d % 4 = 0 → localOk d 4 = true → (s.core core).mism = 0 →
      x.lateStores = [] → x.views = [] → (∀ y ∈ x.lateLoads, y.addr ≠ a ∧ y.addr ≠ b ∧ y.addr ≠ d) →
      does .scpy [a] (s.localWord core a, 0) ∧
      (∀ sat, r.ty = .int sat →
        does .sadd [a, b] (int sat ((s.localWord core a).toInt + (s.localWord core b).toInt)) ∧
        does .smul [a, b] (int sat ((s.localWord core a).toInt * (s.localWord core b).toInt)) ∧
        does .sfma [a, b, d]
          (int sat ((s.localWord core a).toInt * (s.localWord core b).toInt + (s.localWord core d).toInt))) ∧
      (∀ rnd, r.ty = .fp rnd →
        does .sadd [a, b] (fAdd rnd (s.localWord core a) (s.localWord core b)) ∧
        does .smul [a, b] (fMul rnd (s.localWord core a) (s.localWord core b)) ∧
        does .sfma [a, b, d] (fFma rnd (s.localWord core a) (s.localWord core b) (s.localWord core d))))) ∧
  (∀ (s : State) (cl core : Nat) (e : VecEntry) (d a b : VNo) (r : Rnd) (pn : Bool) (g : Reg) (c : Cond) (sat : Bool)
      (to_ from_ : Fmt),
    let k := s.core core
    let lanes := (List.range 16).filterMap fun i => if 16 * e.granted + i < e.vl then some (16 * e.granted + i) else none
    let isNaN (w : Word) : Bool := expField w == 255 && fracField w != 0
    let grants (q : VecEntry) : Prop :=
      ∃ t : State, Gives (.passGrant cl) s t ∧ (t.core core).vq = [q] ∧ sameBytes s t ∧ (t.core core).lanes = k.lanes
    let does (i : Instr) (srcs : List VNo) (marks : Bool) (f : Nat → Word × Flags) : Prop := e.ins = i → grants { e with
      granted := e.granted + 1
      out := e.out ++ lanes.map fun n =>
        (n, (f n).1, (srcs.any fun v => k.lanePoison v n) || (marks && isNaN (f n).1))
      flags := lanes.foldl (fun fl n => fl ||| (f n).2) e.flags }
    let x (n : Nat) : Word := k.lane a n
    let y (n : Nat) : Word := k.lane b n
    let z (n : Nat) : Word := k.lane d n
    let int (f : Nat → ℤ) (n : Nat) : Word × Flags := (wInt (f n), 0)
    let word (f : Nat → Word) (n : Nat) : Word × Flags := (f n, 0)
    let mi : VMod := ⟨true, r, pn⟩
    let mf : VMod := ⟨false, r, pn⟩
    (s.cluster cl).power = .on → eligibleCores s cl = [core] → k.vq = [e] →
    (k.vmism = 0 →
      does (.vadd d a b mi) [a, b] false (int fun n => (x n).toInt + (y n).toInt) ∧
      does (.vsub d a b mi) [a, b] false (int fun n => (x n).toInt - (y n).toInt) ∧
      does (.vmul d a b mi) [a, b] false (int fun n => (x n).toInt * (y n).toInt) ∧
      does (.vfma d a b mi) [a, b, d] false (int fun n => (x n).toInt * (y n).toInt + (z n).toInt) ∧
      does (.vmin d a b mi) [a, b] false (int fun n => min (x n).toInt (y n).toInt) ∧
      does (.vmax d a b mi) [a, b] false (int fun n => max (x n).toInt (y n).toInt) ∧
      does (.vadd d a b mf) [a, b] pn (fun n => fAdd r (x n) (y n)) ∧ does (.vsub d a b mf) [a, b] pn (fun n => fSub r (x n) (y n)) ∧
      does (.vmul d a b mf) [a, b] pn (fun n => fMul r (x n) (y n)) ∧
      does (.vfma d a b mf) [a, b, d] pn (fun n => fFma r (x n) (y n) (z n)) ∧
      does (.vmin d a b mf) [a, b] pn (fun n => fMinMax false (x n) (y n)) ∧
      does (.vmax d a b mf) [a, b] pn (fun n => fMinMax true (x n) (y n)) ∧
      does (.vand d a b) [a, b] false (word fun n => x n &&& y n) ∧ does (.vor d a b) [a, b] false (word fun n => x n ||| y n) ∧
      does (.vxor d a b) [a, b] false (word fun n => x n ^^^ y n) ∧
      does (.vshl d a b) [a, b] false (word fun n => w32 ((x n).toNat * 2 ^ ((y n).toNat % 32))) ∧
      does (.vshr d a b) [a, b] false (word fun n => w32 ((x n).toNat / 2 ^ ((y n).toNat % 32))) ∧
      does (.vcmp d a b .eq true) [a, b] false (word fun n => if x n = y n then 1 else 0) ∧
      does (.vcmp d a b .lt true) [a, b] false (word fun n => if (x n).toInt < (y n).toInt then 1 else 0) ∧
      does (.vcmp d a b .le true) [a, b] false (word fun n => if (x n).toInt ≤ (y n).toInt then 1 else 0) ∧
      does (.vcmp d a b c false) [a, b] false (fun n => fCompare c (x n) (y n)) ∧
      does (.vsel d a b) [a, b, d] false (word fun n => if z n = 0 then y n else x n) ∧
      does (.vexp2 d a r pn) [a] pn (fun n => fExp2 r (x n)) ∧ does (.vlog2 d a r pn) [a] pn (fun n => fLog2 r (x n)) ∧
      does (.vrcp d a r pn) [a] pn (fun n => fRcp r (x n)) ∧
      does (.vbcst d g) [] false (fun _ => (e.x, 0)) ∧
      (∀ m ex, does (.vrsum g a m ex) [a] false (word x) ∧ does (.vrmax g a m ex) [a] false (word x)) ∧
      (∀ h, e.ins = .vmvg g a h → grants { e with granted := e.granted + 1 }) ∧
      (e.ins = .vperm d a b → grants { e with granted := e.granted + 1, out := e.out ++ lanes.map fun n =>
        let j := (y n).toNat % 64
        (n, x j, k.lanePoison a j || k.lanePoison b n) }) ∧
      (e.ins = .vcvt d a r sat to_ from_ →
        let q := lanes.foldl (fun (u : State × List (Nat × Word × Bool) × Flags) n =>
          let v := u.1.convertDraw (clusterOf core) from_ to_ r sat (x n).toNat
          (v.2, u.2.1 ++ [(n, placeBits to_ v.1.bits, k.lanePoison a n)], u.2.2 ||| v.1.flags)) (s, e.out, e.flags)
        ∃ t : State, Gives (.passGrant cl) s t ∧ sameBytes s t ∧ (t.cluster (clusterOf core)).gen = (q.1.cluster (clusterOf core)).gen ∧
          (t.core core).vq = [{ e with granted := e.granted + 1, out := q.2.1, flags := q.2.2 }]) ∧
      (∀ m, e.ins = .vscan d a m → e.out = [] → ∃ (f : Nat → Word) (fl : Nat → Flags),
        f 0 = (if m.int = false ∧ isNaN (x 0) = true then 0x7FC00000 else x 0) ∧ fl 0 = 0 ∧
        (∀ n, (f (n + 1), fl (n + 1)) = if m.int then (wInt ((f n).toInt + (x (n + 1)).toInt), 0) else fAdd m.rnd (f n) (x (n + 1))) ∧
        grants { e with
          granted := e.granted + 1
          out := (List.range e.vl).map fun n => (n, f n, ((List.range (n + 1)).any fun j => k.lanePoison a j) ||
            (m.pn && !m.int && isNaN (f n)))
          flags := (List.range e.vl).foldl (fun u n => u ||| fl n) e.flags })) ∧
    (2 ≤ k.vmism → isVecMem e.ins = false → k.mlim = 0 → k.tlim = 0 →
      ∃ t : State, Gives (.passGrant cl) s t ∧ (t.core core).vq = [{ e with granted := e.granted + 1, failed := true }] ∧
        (t.core core).vmism = k.vmism - 2 ∧ t.clusters = s.clusters ∧
        (t.core core).chkcnt.toNat = min 65535 (k.chkcnt.toNat + 2))) ∧
  (∀ (s : State) (cl core : Nat) (e : VecEntry) (d v : VNo) (m : MemOp) (y : Bool) (t : Fmt),
    let k := s.core core
    let ea := e.x.toNat
    let lanes := (List.range 16).filterMap fun i => if 16 * e.granted + i < e.vl then some (16 * e.granted + i) else none
    let at_ (n : Nat) : Nat × Nat := (ea + 4 * (n * t.width / 32), n * t.width % 32)
    let element (n : Nat) (w : Word) : Word :=
      let u := w.toNat / 2 ^ (at_ n).2 % 2 ^ t.width
      w32 (if t.isInt ∧ 2 ^ (t.width - 1) ≤ u then u + 2 ^ 32 - 2 ^ t.width else u)
    let source (n : Nat) : Word × Bool := if e.held.isSome then e.word (at_ n).1
      else (s.localWord core (at_ n).1, s.poisoned core (at_ n).1)
    let fetched (n : Nat) : Nat × Word × Bool := (n, element n (source n).1, (source n).2)
    let index (n : Nat) : Nat := (k.lane v n).toNat
    let byte (n : Nat) : Nat := ea + index n * t.width / 8
    let inside (n : Nat) : Prop := if ea < 0x100000 then byte n < 0x6000 else 0x100000 ≤ byte n ∧ byte n < 0x180000
    let lost (n : Nat) : Prop := k.lanePoison v n = true ∨ ¬inside n
    let clean (ns : List Nat) : Prop := ∀ n ∈ ns, localOk (at_ n).1 4 = true ∧
      (s.mem (placeOf core (at_ n).1)).err (offsetOf (at_ n).1) = none
    let grants (w : State) : Prop := Gives (.passGrant cl) s w
    let loads (i : Instr) (out : List (Nat × Word × Bool)) : Prop := e.ins = i →
      (s.cur.late = false ∨ e.held.isSome = true → ∃ w q, grants w ∧ (w.core core).vq = [q] ∧ sameBytes s w ∧
        q.granted = e.granted + 1 ∧ q.out = e.out ++ out ∧ q.owed = e.owed ∧ q.flags = e.flags) ∧
      (s.cur.late = true → e.held = none → ∃ w, grants w ∧ sameBytes s w ∧
        (w.core core).vq = [{ e with granted := e.granted + 1, owed := e.owed ++ [e.granted] }])
    -- which of the elements that a list of lanes names is written last there
    let last (l : List Nat) (key : Nat → Nat) (n : Nat) : Prop := n ∈ l ∧ ∀ j ∈ l, n < j → key j ≠ key n
    let stores (i : Instr) (l : List Nat) (key : Nat → Nat) (gone : Option (Word × Word)) : Prop := e.ins = i → s.cur.late = false →
      ∃ w, grants w ∧ (w.core core).vq = [{ e with granted := e.granted + 1, lost := e.lost.or gone }] ∧
        (∀ n, last l key n → (w.localWord core (at_ (key n)).1).toNat / 2 ^ (at_ (key n)).2 % 2 ^ t.width =
          (k.lane d n).toNat % 2 ^ t.width) ∧
        (∀ a j, a % 4 = 0 → localOk a 4 = true → j < 32 →
          (∀ n ∈ l, ¬((at_ (key n)).1 = a ∧ (at_ (key n)).2 ≤ j ∧ j < (at_ (key n)).2 + t.width)) →
          (w.localWord core a).getLsbD j = (s.localWord core a).getLsbD j) ∧
        (∀ p a, p ≠ .tcm core → p ≠ .spad (clusterOf core) → (w.mem p).byte a = (s.mem p).byte a) ∧
        ∀ a, localOk a 1 = true → ((w.localSide core a).p = true ↔ (s.localSide core a).p = true ∨
          ∃ n ∈ l, (at_ (key n)).1 / 128 = a / 128 ∧ k.lanePoison d n = true)
    (s.cluster cl).power = .on → eligibleCores s cl = [core] → k.vq = [e] → e.got = [] → e.owed = [] → ea % 4 = 0 →
    (s.ctx core e.ctx).lateStores = [] →
    (clean lanes → loads (.vld d m y t) (lanes.map fetched) ∧ stores (.vst d m t) lanes id none) ∧
    ((∀ n ∈ lanes, lost n ∨ clean [index n]) → ∃ (l : List Nat) (out : List (Nat × Word × Bool)) (gone : Option (Word × Word)),
      (∀ n, n ∈ l ↔ n ∈ lanes ∧ ¬lost n) ∧ out.map Prod.fst = lanes ∧
      (∀ o ∈ out, (lost o.1 → o.2 = (0, true)) ∧ (¬lost o.1 → o.2 = (fetched (index o.1)).2)) ∧
      (gone = none ↔ ∀ n ∈ lanes, ¬lost n) ∧
      (∀ n ∈ lanes, lost n → (∀ j ∈ lanes, j < n → ¬lost j) →
        gone = some (w32 (byte n), w32 (n + if k.lanePoison v n = true then 256 else 0))) ∧
      loads (.vgth d m y v t) out ∧ stores (.vsct d m v t) l index gone)) ∧
  (∀ (s : State) (core : Nat) (e₀ : VecEntry) (rest : List VecEntry) (act : Act),
    let q := (s.updCore core fun k => { k with vq := rest }).vecOwed core e₀
    let u := q.1
    let e := q.2
    let gives (t : State) : Prop := Gives (.vectorResultWrite core) s t
    let traps (i : TrapInfo) : Prop := gives (u.trap core e.ctx i
      (match (u.core core).stream with
       | some r => if r.ctx = e.ctx then r.next else act.pc
       | none => act.pc) e.orig e.popped)
    let writes (r : Reg) (w : Word) : Prop := ∃ t, gives t ∧ (t.core core).vq = rest ∧ sameBytes u t ∧
      (∀ n, r = .g n → (t.ctx core e.ctx).g[n] = w) ∧ (r = .lk → (t.ctx core e.ctx).lk = w)
    (s.core core).vq = e₀ :: rest → e₀.allGranted = true → u.act core e.ctx = some act →
    (e₀.owed = [] → u = s.updCore core (fun k => { k with vq := rest }) ∧ e = e₀) ∧
    (e.failed = true →
      (∀ r v m n, e.ins ∈ [Instr.vrsum r v m false, .vrmax r v m false] → n < e.vl → (u.core core).lanePoison v n = true →
        (∀ j, j < n → (u.core core).lanePoison v j = false) → traps ⟨8, 0, w32 n⟩) ∧
      (∀ r v x, e.ins = .vmvg r v x → e.x.toNat < 64 → (u.core core).lanePoison v e.x.toNat = true → traps ⟨8, 0, e.x⟩) ∧
      ((∀ r v m, e.ins ∈ [Instr.vrsum r v m false, .vrmax r v m false] → ∀ n, n < e.vl → (u.core core).lanePoison v n = false) →
        (∀ r v x, e.ins = .vmvg r v x → (u.core core).lanePoison v (e.x.toNat % 64) = false) →
        traps ⟨7, ((encode e.ins).getLast?.getD 0).setWidth 32, 1⟩)) ∧
    (e.failed = false → e.lost = none →
      (∀ v, vecDst e.ins = some v → e.out.Pairwise (fun x y => x.1 ≠ y.1) → (∀ o ∈ e.out, o.1 < 64) →
        ∃ t, gives t ∧ (t.core core).vq = rest ∧
          (∀ o ∈ e.out, (t.core core).lane v o.1 = o.2.1 ∧ (t.core core).lanePoison v o.1 = o.2.2) ∧
          (∀ n, n < 64 → (∀ o ∈ e.out, o.1 ≠ n) →
            (t.core core).lane v n = (u.core core).lane v n ∧ (t.core core).lanePoison v n = (u.core core).lanePoison v n) ∧
          (t.ctx core e.ctx).fflags = (u.ctx core e.ctx).fflags ||| e.flags ∧ (t.ctx core e.ctx).g = (u.ctx core e.ctx).g ∧
          sameBytes u t) ∧
      (∀ r v x, e.ins = .vmvg r v x → e.x.toNat < 64 →
        ((u.core core).lanePoison v e.x.toNat = false → writes r ((u.core core).lane v e.x.toNat)) ∧
        ((u.core core).lanePoison v e.x.toNat = true → traps ⟨8, 0, e.x⟩)) ∧
      (∀ (r : Reg) (v : VNo) (m : VMod) (ex : Bool) (ins : Instr), e.ins = ins → ins ∈ [.vrsum r v m ex, .vrmax r v m ex] →
        e.out.Pairwise (fun x y => x.1 < y.1) → (∀ o ∈ e.out, o.1 < 64) →
        (ex = false → ∀ o ∈ e.out, o.2.2 = true → (∀ o' ∈ e.out, o'.1 < o.1 → o'.2.2 = false) → traps ⟨8, 0, w32 o.1⟩) ∧
        (ex = true ∨ (∀ o ∈ e.out, o.2.2 = false) → ∃ N : Nat → Nat → Option Word,
          (∀ o ∈ e.out, N 0 o.1 = if ex = true ∧ o.2.2 = true then none else some o.2.1) ∧
          (∀ n, n < 64 → (∀ o ∈ e.out, o.1 ≠ n) → N 0 n = none) ∧
          (∀ lv i, lv < 6 → i < 2 ^ (5 - lv) → N (lv + 1) i =
            match N lv (2 * i), N lv (2 * i + 1) with
            | none, h => h
            | some l, none => some l
            | some l, some h => some (if ins = .vrsum r v m ex then (if m.int then wInt (l.toInt + h.toInt) else (fAdd m.rnd l h).1)
                else if m.int then wInt (max l.toInt h.toInt) else (fMinMax true l h).1)) ∧
          let empty : Word := if ins = .vrsum r v m ex then 0 else if m.int then 0x80000000 else 0xFF800000
          let res := (N 6 0).getD empty
          let res := if m.int = false ∧ expField res = 255 ∧ fracField res ≠ 0 then 0x7FC00000 else res
          (∀ n, r = .g n → ex = false → writes r res) ∧ (r = .lk → ex = false → writes r res) ∧
          (∀ n, r = .g n → ex = true → n.val % 2 = 0 →
            ∃ t, gives t ∧ (t.core core).vq = rest ∧ (t.ctx core e.ctx).g[n] = res ∧
              (t.ctx core e.ctx).g[n + 1] = w32 (e.out.filter fun o => o.2.2).length)))) ∧
    (∀ d m v t x i, e.ins = .vsct d m v t → e.failed = false → e.lost = some (x, i) →
      let y := u.updCtx core e.ctx fun y => y.addFlags e.flags
      gives (y.coreEvent core (y.onBehalf core e.ctx unitVector) 43 x i))) ∧
  (∀ (s : State) (core j : Nat) (e : VecEntry) (d : VNo) (m : MemOp) (y : Bool) (t : Fmt),
    let lanes := (List.range 16).filterMap fun i => if 16 * j + i < e.vl then some (16 * j + i) else none
    let at_ (n : Nat) : Nat × Nat := (e.x.toNat + 4 * (n * t.width / 32), n * t.width % 32)
    e.ins = .vld d m y t → e.owed = [j] → e.held = none → e.got = [] → (s.ctx core e.ctx).lateStores = [] →
    (∀ n ∈ lanes, (s.mem (placeOf core (at_ n).1)).err (offsetOf (at_ n).1) = none ∧ (at_ n).1 % 4 = 0) →
    let q := s.vecOwed core e
    q.1 = s ∧ q.2.owed = [] ∧ q.2.out = e.out ++ lanes.map fun n =>
      let u := (s.localWord core (at_ n).1).toNat / 2 ^ (at_ n).2 % 2 ^ t.width
      (n, w32 (if t.isInt ∧ 2 ^ (t.width - 1) ≤ u then u + 2 ^ 32 - 2 ^ t.width else u), s.poisoned core (at_ n).1))

/-! ## Operations and events of the device: global memory and steps -/

/-- Global reads (R81, R85, R103, R113, R332, R333): a station without an entry for the page answers XLAT, one whose entry
lacks RD answers CAPAB, but for the raw lines of an image (R228), else the read goes to the home of its frame; the home serves it when it has applied the step before
its tag, with the words of the frame that is current after that apply, where their code words hold no error; a word that a later
apply has changed comes as it was before (how the home keeps it is the model's choice: assumption 85); a reply with data fills
the registers that await it and one with a cause leaves that cause with them. No byte of memory changes. -/
def Obligations.GlobalReadEvents : Prop :=
  (∀ (s : State) (l r : List GlobalRead) (g : GlobalRead) (i : Nat),
    let answered (res : ReadResult) : Prop := Gives (.readServe l.length) s { s with
      reads := l ++ r, replies := s.replies ++ [⟨g.id, g.by_, g.va, g.tag, g.dest, res⟩] }
    let entry := s.findEntry i g.by_.pid g.va
    s.reads = l ++ g :: r → g.station = some i → (∀ chip id, g.dest ≠ .remote chip id) →
    (g.at_ = none →
      (entry = none → answered (.fail 9)) ∧
      (∀ e, entry = some e → (e.rmt = true ∧ g.second = true → answered (.fail 9)) ∧
        (e.rd = false → g.raw = false → e.rmt = false → answered (.fail 10)) ∧
        (e.rd = true ∨ g.raw = true → e.rmt = false → Gives (.readServe l.length) s { s with
          reads := l ++ { g with at_ := some (e.place (readVas g)) } :: r }))) ∧
    (∀ p (t : ℤ), g.at_ = some p → p.code ≠ 8 → g.tag = BitVec.ofInt 16 t →
      let c := (s.domain g.by_.pid).c
      c + 1 - 2 ^ 15 ≤ t → t ≤ c + 2 ^ 15 →
      (mayServe s g p = true ↔ t ≤ c + 1 ∨ (t = c + 2 ∧ p.home ∈ (s.domain g.by_.pid).applied)) ∧
      (mayServe s g p = false → Gives (.readServe l.length) s s)) ∧
    (∀ p, g.at_ = some p → mayServe s g p = true →
      let d := s.domain g.by_.pid
      let first := State.homeOf p.frame
      let begun (i : Nat) : Bool := d.applied.contains i || d.applying.contains i
      let ahead : Bool := d.flips.contains p.frame && begun first && !begun p.home
      let shadow : Bool := p.code = 0 && (s.selBit first p.frame != ahead)
      let as := p.phys.map fun a => if shadow then a - 2 ^ 21 * p.frame + 2 ^ 21 * p.shadow else a
      let past := (s.station p.home).past
      let tagged (t : ℤ) : Prop := g.tag = BitVec.ofInt 16 t ∧ d.c + 1 - 2 ^ 15 ≤ t ∧ t ≤ d.c + 2 ^ 15
      (∀ a ∈ as, ∀ b, b / 128 = a / 128 → s.gmem.err b = none) →
      (p.code = 8 ∨ (∃ t : ℤ, tagged t ∧ ∀ x ∈ past, x.pid = g.by_.pid → (x.step : ℤ) < t) →
        answered (.data (as.map s.gmem.word) (s.gmem.line (as.headD 0 / 128)).p)) ∧
      (∀ (t : ℤ), ∀ x ∈ past, p.code ≠ 8 → tagged t → x.pid = g.by_.pid → t ≤ x.step → p.phys = [x.addr] →
        (∀ y ∈ past, y.pid = g.by_.pid → t ≤ y.step → y.addr / 128 = x.addr / 128 → y = x) → answered (.data [x.val] x.p)))) ∧
  (∀ (s : State) (l r : List ReadReply) (y : ReadReply) (a : Act) (id : Nat) (k : Fin 16) (mark : ReadMark),
    let core := y.by_.core
    let c := y.by_.ctx
    s.replies = l ++ y :: r → y.dest = .gld id [k] → s.act core c = some a → mark ∈ a.reads → mark.id = id →
    (∀ w, y.res = .data [w] false →
      ∃ t b, Gives (.globalReadReply l.length) s t ∧ t.act core c = some b ∧ b.reads = a.reads.filter (fun m => m.id != id) ∧
        (t.ctx core c).g[k] = w ∧ (∀ n, n ≠ k → (t.ctx core c).g[n] = (s.ctx core c).g[n]) ∧ sameBytes s t) ∧
    (∀ cause, y.res = .fail cause →
      ∃ t b, Gives (.globalReadReply l.length) s t ∧ t.act core c = some b ∧ (t.ctx core c).g = (s.ctx core c).g ∧
        (∃ m ∈ b.reads, m.id = id ∧ m.fault = some ⟨cause, y.va.extractLsb' 0 32, y.va.extractLsb' 32 32⟩) ∧ sameBytes s t))

/-- Far stores (R81, R85, R101, R104 to R113, R117, R119, R121, R124, R141): a store that finds no entry is taken from its way, its
step is held and its issuer gets the notice that counts as acceptance, with the merge code 15 of no entry (R238); of a GSTMC the issuer holds the step once every chip
has answered (the model's reading: assumption 70). One that finds a writable entry of this chip goes to the home; a copy for
another chip leaves once no earlier access of its context has still to leave for that chip. The home writes a DIRECT store at
once, accepts and discards one of an aborted step, and also one of a past step (the model's reading: assumption 94). A store of
an open step begins a staging entry of its page's code:
LAST with its key, ISUM, FMAX, FMIN and BOR with its word, FSUM with its exact value, CSUM with that and +0 for the other
component, UNIQ with its written bit, the word going to the frame that is not current, or with its value while the step before
is not yet applied. A further store is combined: the sum modulo 2^32, the OR, the maximum or minimum, the exact sum, of LAST
the word of the higher key; a poisoned one leaves the value and sets P; a second UNIQ store, or one of another code, makes the
word a conflict, which is recorded and holds the step. A notice of the last chip ends the count; a stall beyond STALLMAX is
reported once for its step. -/
def Obligations.FarStoreEvents : Prop :=
  (∀ (s : State) (l r : List FarStore) (st : FarStore),
    let k := l.length
    let notice (t : State) (cause : Nat) : Prop :=
      t.stores = l ++ r ∧ ∃ n, t.notices = s.notices ++ [⟨st.by_.core, st.seq, s.chip, cause, n⟩] ∧ (cause = 9 → n = 15)
    let holds (t : State) (step : Nat) : Prop :=
      ⟨step, st.by_.rank, st.by_.lcore, st.seq⟩ ∈ (t.domain st.by_.pid).faults
    s.stores = l ++ st :: r → st.from_ = none → st.replay = none →
    (∀ i, st.place = .translate i →
      (s.findEntry i st.by_.pid st.va = none →
        (st.kind ≠ .cpfst → st.kind ≠ .gstmc →
          ∃ t : State, Gives (.farStoreTranslation k) s t ∧ notice t 9 ∧
            ∀ step, s.stepOfTag st.by_.pid st.by_.tag = some step → holds t step) ∧
        (st.kind = .gstmc → ∃ t : State, Gives (.farStoreTranslation k) s t ∧ notice t 9 ∧ t.domains = s.domains)) ∧
      (∀ e, s.findEntry i st.by_.pid st.va = some e → e.wr = true → e.rmt = false →
        Gives (.farStoreTranslation k) s { s with
          stores := l ++ { st with place := .home (e.place (st.words.map (·.1))), stalled := false } :: r })) ∧
    (∀ chip i x, st.place = .away chip i → x = s.conn chip 2 →
      (s.earlierAway st.by_ st.born chip = true → Gives (.farStoreTranslation k) s s) ∧
      (s.earlierAway st.by_ st.born chip = false → x.unreachable = false → x.exchanging = false → x.waiting = [] →
        x.unacked.length < 1024 →
        ∃ t y, Gives (.farStoreTranslation k) s t ∧ t.stores = l ++ r ∧ (t.conn chip 2).unacked = x.unacked ++ [y] ∧
          y.pkt = .store { st with place := .translate i, second := true, stalled := false } ∧ sameBytes s t)) ∧
    (∀ p, st.place = .home p →
      (∀ a w va, p.code = 8 → s.earlierAccess st.by_ st.born p.home = false → st.words = [(va, w)] → p.phys = [a] → st.p = false →
        ∃ t : State, Gives (.farStoreAccept k) s t ∧ notice t 0 ∧ t.gmem.word a = w ∧ bytesBut .global a 4 s t ∧
          (t.gmem.line (a / 128)).fe = true) ∧
      (p.code ≠ 8 → stepState s st.by_.pid st.by_.tag p.home = .past ∨ stepState s st.by_.pid st.by_.tag p.home = .aborted →
        ∃ t : State, Gives (.farStoreAccept k) s t ∧ notice t 0 ∧ sameBytes s t) ∧
      (∀ a w va step now, p.code < 8 → stepState s st.by_.pid st.by_.tag p.home = .open_ step now →
        st.words = [(va, w)] → p.phys = [a] → st.pairs = false → (∀ y ∈ l, y.stalled = false) →
        let old := (s.station p.home).staging
        let here (b : Nat) (e : Stage) : Prop := e.pid = st.by_.pid ∧ e.step = step ∧ e.addr = b
        let peer := if a % 8 < 4 then a + 4 else a - 4
        let other := if s.selBit (State.homeOf p.frame) p.frame then a else a - 2 ^ 21 * p.frame + 2 ^ 21 * p.shadow
        let exact (w : Word) (v : StageVal) : Prop := ∃ acc nan pinf ninf, v = .sum acc nan pinf ninf (w == 0x80000000) true ∧
          (nan = true ↔ wordNan w) ∧ (pinf = true ↔ w = 0x7F800000) ∧ (ninf = true ↔ w = 0xFF800000) ∧
          (expField w ≠ 255 → (acc : ℝ) = wordVal w * 2 ^ 149)
        State.stageBytes (old.filter fun e => !e.sump) + 128 ≤ 12 * 2 ^ 20 →
        (st.p = false → (∀ e ∈ old, ¬here a e ∧ (p.code = 7 → ¬here peer e)) →
          ∃ (t : State) (e : Stage) (more : List Stage), Gives (.farStoreAccept k) s t ∧ notice t 0 ∧ (t.station p.home).staging = old ++ e :: more ∧ here a e ∧
            e.code = p.code ∧ e.conflict = false ∧ e.count = 1 ∧ e.p = false ∧
            (p.code = 0 → now = true → e.val = .written ∧ t.gmem.word other = w ∧ bytesBut .global other 4 s t) ∧
            (p.code = 0 → now = false → e.val = .heldUniq w) ∧ (p.code ≠ 0 ∨ now = false → sameBytes s t) ∧
            (p.code = 1 → e.val = .last (some (w, st.key, st.by_.rank, st.by_.lcore, st.seq))) ∧
            (p.code = 2 ∨ p.code = 4 ∨ p.code = 5 ∨ p.code = 6 → e.val = .plain (some w)) ∧
            (p.code = 3 ∨ p.code = 7 → exact w e.val) ∧ (p.code ≠ 7 → more = []) ∧
            (p.code = 7 → ∃ f, more = [f] ∧ here peer f ∧ f.code = 7 ∧ exact 0 f.val ∧ f.count = 1 ∧ f.conflict = false)) ∧
        (∀ (x y : List Stage) (e : Stage), old = x ++ e :: y → (∀ f ∈ x, ¬here a f) → here a e → p.code ≠ 7 →
          let becomes (f : Stage) (cause : Nat) (t : State) : Prop :=
            Gives (.farStoreAccept k) s t ∧ notice t cause ∧ (t.station p.home).staging = x ++ f :: y ∧ sameBytes s t
          (e.conflict = true → ∃ t, becomes e 0 t) ∧
          (e.conflict = false → e.code ≠ p.code ∨ p.code = 0 ∨ (p.code = 3 ∧ 2 ^ 32 - 1 ≤ e.count) → st.kind ≠ .cpfst →
            ∃ t, becomes { e with conflict := true } 11 t ∧ holds t step) ∧
          (e.conflict = false → e.code = p.code → p.code ≠ 0 → e.count < 2 ^ 32 - 1 →
            let combined (v : StageVal) : Prop := ∃ t, becomes { e with val := v, count := e.count + 1 } 0 t
            (st.p = true → ∃ t, becomes { e with p := true, count := e.count + 1 } 0 t) ∧
            (st.p = false →
              (∀ v, e.val = .plain (some v) →
                (p.code = 2 → combined (.plain (some (w32 (v.toNat + w.toNat))))) ∧
                (p.code = 6 → combined (.plain (some (v ||| w)))) ∧
                (p.code = 4 → combined (.plain (some (fMinMax true v w).1))) ∧
                (p.code = 5 → combined (.plain (some (fMinMax false v w).1)))) ∧
              (∀ v key, p.code = 1 → e.val = .last (some (v, key)) →
                let num (k : LastKey) : Nat :=
                  k.1.toNat * 2 ^ 70 + k.2.1.toNat * 2 ^ 48 + k.2.2.1.toNat * 2 ^ 32 + k.2.2.2.toNat
                let mine : LastKey := (st.key, st.by_.rank, st.by_.lcore, st.seq)
                combined (.last (some (if num key ≤ num mine then (w, mine) else (v, key))))) ∧
              (∀ acc nan pinf ninf negz, p.code = 3 → e.val = .sum acc nan pinf ninf negz true → expField w ≠ 255 →
                ∃ d : ℤ, (d : ℝ) = wordVal w * 2 ^ 149 ∧
                  combined (.sum (acc + d) nan pinf ninf (negz && w == 0x80000000) true)))))))) ∧
  (∀ (s : State) (l r : List Notice) (n : Notice) (p : Pending),
    s.notices = l ++ n :: r → p ∈ s.pending → p.core = n.core → p.seq = n.seq → p.chips = [n.chip] → p.cmd = none →
    (∀ q ∈ s.pending, q.core = n.core → q.seq = n.seq → q = p) → s.pending.Nodup →
    ∃ t : State, Gives (.acceptanceNotice l.length) s t ∧ t.notices = l ++ r ∧ p ∉ t.pending ∧
      (∀ q ∈ s.pending, q ≠ p → q.chips ≠ [] → q ∈ t.pending) ∧
      ∀ st step k, p.store = some st → n.cause = 9 → s.stepOfTag st.by_.pid st.by_.tag = some step →
        k < s.nrank st.by_.pid → s.chipEntry st.by_.pid k = some n.chip →
        ⟨step, st.by_.rank, st.by_.lcore, st.seq⟩ ∈ (t.domain st.by_.pid).faults) ∧
  (∀ (s : State) (i since step : Nat) (st : FarStore),
    (s.station i).stallSince = some since → s.stores.find? (fun x => x.stalled && State.storeStation x == i) = some st →
    s.stepOfTag st.by_.pid st.by_.tag = some step → 1300 * st.stallmax.toNat < s.now - since →
    (s.station i).sumpSent.contains (st.by_.pid, step) = false →
    ∃ t : State, Gives (.stallLimit i) s t ∧ (t.station i).sumpSent = (s.station i).sumpSent ++ [(st.by_.pid, step)] ∧
      t.rseq = s.rseq + 1 ∧ t.stores = s.stores)

/-- The steps of a domain (R87, R97, R106 to R112, R115, R116, R121 to R124, R383, R436): a member core that has arrived, and
whose stores and reads of the step are settled, is reported once; a station that the apply signal reaches applies its staging
of the step and keeps none of it: ISUM adds, BOR ORs, FMAX and FMIN choose, LAST writes its word, FSUM writes the rounded sum
with the old word, a word of a UNIQ page that is not swapped is copied, a swapped page changes its selector, and a conflicting
word stays and poisons its line, for CSUM with the other component (that a CSUM pair with a conflict in one component is left
unwritten in both is the model's reading: assumption 26, DEDUCED); it applies nothing of an aborted step. When every station has ended the commit notice raises C
by one, and the count of stretched steps where that boundary was late (counted at the commit, the model's reading: assumption
33, DEDUCED); a decision ends the hold of a step, STABT by an abort. -/
def Obligations.StepEvents : Prop :=
  (∀ (s : State) (core : Nat) (j : BitVec 64),
    let k := s.core core
    let t := s.openStep k.pid
    (∀ e ∈ s.domains, ∀ g ∈ e.2.ghosts, g.2.1 ≠ core) → k.joined = some j → j.toNat ≤ t → BitVec.ofNat 64 t ∈ k.arrived →
    t < 2 ^ 64 → (t, core) ∉ (s.domain k.pid).reported → (s.cluster (clusterOf core)).power = .on →
    s.settled core k.pid (BitVec.ofNat 64 t) = true →
    ∃ u : State, Gives (.arrivalReport core) s u ∧ (t, core) ∈ (u.domain k.pid).reported ∧ BitVec.ofNat 64 t ∉ (u.core core).arrived) ∧
  (∀ (s : State) (pid : BitVec 16) (i : Nat),
    let d := s.domain pid
    let step := (d.c + 1).toNat
    d.phase = .apply → i < 32 → i ∉ d.applied → i ∉ d.applying →
    ((∀ e ∈ s.entriesOf i pid step, e.code ≠ 0) →
      (d.abortNow = true → d.signalled = true →
        ∃ t : State, Gives (.applySignal pid i) s t ∧ (t.domain pid).applying = d.applying ++ [i] ∧ sameBytes s t) ∧
      (d.abortNow = false →
        ∃ t : State, Gives (.applySignal pid i) s t ∧ i ∈ (t.domain pid).applying ∧
          ∀ e ∈ (t.station i).staging, ¬(e.pid = pid ∧ e.step = step))) ∧
    (d.abortNow = false → d.signalled = true →
      (∀ f, d.flips = [f] → State.homeOf f = i → (∃ e ∈ s.entriesOf i pid step, e.code = 0 ∧ e.frame = f) →
        ∃ t : State, Gives (.applySignal pid i) s t ∧ t.selBit i f = !s.selBit i f) ∧
      (∀ e f, d.flips = [] → s.entriesOf i pid step = [e, f] ∨ s.entriesOf i pid step = [f, e] → e.code = 7 → e.conflict = false →
        f.conflict = true → f.code ≠ 0 → f.addr = (if e.addr % 8 < 4 then e.addr + 4 else e.addr - 4) →
        ∃ t : State, Gives (.applySignal pid i) s t ∧ sameBytes s t ∧ (t.gmem.line (e.addr / 128)).p = true ∧
          (t.gmem.line (f.addr / 128)).p = true) ∧
      (∀ e, d.flips = [] → s.entriesOf i pid step = [e] →
        (∀ b, b / 128 = e.addr / 128 ∨ b / 128 = (e.addr - 2 ^ 21 * e.frame + 2 ^ 21 * e.shadow) / 128 → s.gmem.err b = none) →
        let old := s.gmem.word e.addr
        let writes (a : Nat) (x : Word) : Prop :=
          ∃ t : State, Gives (.applySignal pid i) s t ∧ bytesBut .global a 4 s t ∧ t.gmem.word a = x ∧ (t.gmem.line (a / 128)).fe = true
        (e.conflict = true → e.code ≠ 0 → ∃ t : State, Gives (.applySignal pid i) s t ∧ sameBytes s t ∧
          (t.gmem.line (e.addr / 128)).p = true) ∧
        (e.conflict = false →
          (e.code = 0 →
            let shadow := s.selBit (State.homeOf e.frame) e.frame
            let twin := e.addr - 2 ^ 21 * e.frame + 2 ^ 21 * e.shadow
            writes (if shadow then twin else e.addr) (s.gmem.word (if shadow then e.addr else twin))) ∧
          (∀ v key, e.code = 1 → e.val = .last (some (v, key)) → writes e.addr v) ∧
          (∀ v, e.val = .plain (some v) →
            (e.code = 2 → writes e.addr (w32 (old.toNat + v.toNat))) ∧ (e.code = 6 → writes e.addr (old ||| v)) ∧
            (e.code = 4 → writes e.addr (fMinMax true old v).1) ∧ (e.code = 5 → writes e.addr (fMinMax false old v).1)) ∧
          (∀ acc negz, e.code = 3 → e.val = .sum acc false false false negz true → expField old ≠ 255 →
            ∃ x fl, writes e.addr x ∧
              rounded .fp32 .rne false (negz && old == 0x80000000) ((acc : ℝ) / 2 ^ 149 + wordVal old) x.toNat fl))))) ∧
  (∀ (s : State) (pid : BitVec 16) (i : Nat), i ∈ (s.domain pid).applying →
    ∃ t : State, Gives (.applyDone pid i) s t ∧ (t.domain pid).applied = (s.domain pid).applied ++ [i] ∧ i ∉ (t.domain pid).applying) ∧
  (∀ (s : State) (pid : BitVec 16), s.mayCommit pid = true →
    ∃ t : State, Gives (.commitNotice pid) s t ∧ (t.domain pid).c = (s.domain pid).c + 1 ∧
      (t.domain pid).abt = (s.domain pid).abortNow ∧ (t.domain pid).applied = [] ∧
      (t.domain pid).abortNow = (s.domain pid).abortNext ∧
      (t.domain pid).stretched = (s.domain pid).stretched +
        (if (s.domain pid).late = true ∨ (s.openStep pid, 2 ^ 25 + 1) ∈ (s.domain pid).reported then 1 else 0)) ∧
  (∀ (s : State) (l r : List (Nat × Domain)) (d : Domain) (q : DecisionReq) (rest : List DecisionReq),
    s.domains = l ++ (q.pid.toNat, d) :: r → (∀ e ∈ l, e.2.decisions = [] ∧ e.1 ≠ q.pid.toNat) → d.decisions = q :: rest →
    q.origin = s.chip → -1 ≤ d.c → wInt (d.c + 1) = q.step →
    (q.abort = false → d.phase = .held → ∃ t : State, Gives .stepDecision s t ∧ (t.domain q.pid).phase = .apply ∧
      (t.domain q.pid).decisions = rest ∧ (t.domain q.pid).abortNow = d.abortNow) ∧
    (q.abort = false → d.phase ≠ .held → ∃ t : State, Gives .stepDecision s t ∧ (t.domain q.pid).phase = d.phase) ∧
    (q.abort = true → d.phase ≠ .apply → d.abortNow = false → ∃ t : State, Gives .stepDecision s t ∧ (t.domain q.pid).abortNow = true ∧
      (∀ i, i < 32 → ∀ e ∈ (t.station i).staging, ¬(e.pid = q.pid ∧ e.step = (d.c + 1).toNat))))

/-- MAPW_EXECUTE and PID_RETIRE (R12, R83, R84, R345, R346): the oldest request leaves the queue; without a readable image
nothing is written; a page that every named station finds valid, unmapped and without a write that waits is translated there at
once; other writes wait
for the boundary while the domain has a member, on this chip or on another, and else take effect at once. A retired PID is live no more. -/
def Obligations.MapEvents : Prop :=
  (∀ (s : State) (q : MapwReq) (rest : List MapwReq), s.mapws = q :: rest → q.hw = none →
    (q.image = none → Gives .mapwExecute s { s with mapws := rest }) ∧
    (∀ w e0 e1, q.image = some w → w[0]? = some e0 → w[1]? = some e1 →
      let pid := q.by_.pid
      let e := entryOf w
      let stations := namedStations (q.ctl.toNat / 8 % 256) e1
      q.ctl.toNat % 8 = 0 → q.ctl.toNat / 65536 = pid.toNat → e0.toNat % 65536 = pid.toNat → e0.getLsbD 16 = true →
      entryBad s w = false → (∀ i ∈ stations, entryAt s false e i = 0 ∧ (s.station i).entries.length < 65536 ∧
        (∀ x ∈ (s.station i).entries, ¬(x.pid = pid ∧ x.overlaps e = true)) ∧
        ∀ y ∈ (s.domain pid).deferred, ∀ st x rm, y = .entry st x rm → i ∈ st → ¬(x.pid = pid ∧ x.overlaps e = true)) →
      ∃ t : State, Gives .mapwExecute s t ∧ (∀ i ∈ stations, e ∈ (t.station i).entries) ∧
        (∀ i, i ∉ stations → t.station i = s.station i) ∧ sameBytes s t) ∧
    (∀ w, q.image = some w → w.length = 8 → q.ctl.toNat % 8 = 2 → q.ctl.toNat / 65536 = q.by_.pid.toNat → recordBad w = false →
      let at_ := 0xC01FE00000 + 32 * q.by_.pid.toNat
      (s.anyMember q.by_.pid = true →
        ∃ t : State, Gives .mapwExecute s t ∧ sameBytes s t ∧ (t.domain q.by_.pid).deferred.length = (s.domain q.by_.pid).deferred.length + 1) ∧
      (s.anyMember q.by_.pid = false →
        ∃ t : State, Gives .mapwExecute s t ∧ t.gmem.words at_ 7 = w.take 7 ∧ bytesBut .global at_ 32 s t))) ∧
  (∀ (s : State) (pid : BitVec 16), ∃ t : State, Gives (.pidRetire pid) s t ∧ pid ∉ t.live ∧ (∀ p ∈ s.live, p ≠ pid → p ∈ t.live) ∧
    sameBytes s t)

/-- The copy engine (R206 to R215). For the command that is served, a CPFILL request writes the next line of its block with the
pattern, full and not poisoned; in a late turn that write performs afterwards (R125; the turns are the model's: assumption 12).
A CPGET request asks for 32 words of a global line; a CPFST request makes one far store of a block line's words, with the next
number of its core, under the command's key and poisoned where the line is; a CPPUT request reads the next source line, and
with the last one the lines leave for the peer under the next message number of the core. In linear mode line k of the block
lies k strides after the VA. Words that come back are written to their block line. A delivery whose key is another than its
peer's ends with status 3; one that fits an enabled window of a cluster that is not OFF enters that cluster's queue. A command
that has ended leaves the queue with its completion, its writes performed, and one whose next line has been awaited for 2^20
cycles ends with status 4. A delivery that has been written sends the arrival message of its window, which is of answer class:
the window, the offset, the number of lines that the command names, the poisoned lines and the sender (R210). -/
def Obligations.CopyEngineEvents : Prop :=
  (∀ (s : State) (cl : Nat) (c : CpCmd),
    (s.cluster cl).power = .on → chooseCopy s cl (s.cluster cl).cpq = some c → clusterOf c.by_.core = cl →
    let x := s.cluster cl
    let off := c.lineAt
    (c.op = .fill → c.lineFits →
      (s.cur.late = false →
        ∃ t : State, Gives (.copyRequest cl) s t ∧ (t.mem (.spad cl)).words off 32 = List.replicate 32 (c.a.extractLsb' 0 32) ∧
          (t.mem (.spad cl)).line (off / 128) = ⟨true, false⟩ ∧ bytesBut (.spad cl) off 128 s t) ∧
      (s.cur.late = true →
        ∃ (t : State) (y : EngLine), Gives (.copyRequest cl) s t ∧ sameBytes s t ∧ (t.cluster cl).cpLate = x.cpLate ++ [y] ∧ y.cmd = c.id ∧
          y.line = off / 128 ∧ y.side = some (true, false) ∧
          y.words = (List.range 32).map fun i => (off + 4 * i, c.a.extractLsb' 0 32))) ∧
    (c.op = .fst → c.lineClean s cl → c.linear →
      ∃ (t : State) (st : FarStore) (p : Pending), Gives (.copyRequest cl) s t ∧ t.stores = s.stores ++ [st] ∧ t.pending = s.pending ++ [p] ∧ sameBytes s t ∧
        st.kind = .cpfst ∧ st.by_ = c.by_ ∧ st.key = c.b1.extractLsb' 0 16 ∧ st.seq = (s.core c.by_.core).farSeq ∧ st.p = (c.lineRead s cl).p ∧
        st.va = c.lineVa ∧ st.words.map (fun w => w.2) = (c.lineRead s cl).words ∧
        st.words.map (fun w => w.1) = (List.range 32).map (fun i => c.lineVa + BitVec.ofNat 64 (4 * i)) ∧
        p.core = c.by_.core ∧ p.pid = c.by_.pid ∧ p.tag = c.by_.tag ∧ p.seq = st.seq ∧ p.chips = [s.chip] ∧
        (t.core c.by_.core).farSeq = (s.core c.by_.core).farSeq + 1) ∧
    (c.op = .put → c.lineClean s cl →
      (c.next / 32 + 1 < cpLines c.w →
        ∃ (t : State) (y : CpCmd), Gives (.copyRequest cl) s t ∧ y ∈ (t.cluster cl).cpq ∧ y.id = c.id ∧
          y.lines = c.lines ++ [c.lineRead s cl] ∧
          y.next = 32 * (c.next / 32 + 1) ∧ t.deliveries = s.deliveries ∧ t.net = s.net ∧ sameBytes s t) ∧
      (cpLines c.w ≤ c.next / 32 + 1 → c.peerChip = s.chip →
        ∃ (t : State) (d : CpCmd), Gives (.copyRequest cl) s t ∧ t.deliveries = s.deliveries ++ [d] ∧ d.op = .deliver ∧
          d.lines = c.lines ++ [c.lineRead s cl] ∧ d.w = c.w ∧
          d.b1 = c.b1 ∧ d.peer = c.peer ∧ d.peerKey = c.peerKey ∧ d.by_ = c.by_ ∧ d.entered = c.entered ∧
          d.from_ = some (s.chip, cl, c.id) ∧ d.aseq = (s.core c.by_.core).seq ∧
          (t.core c.by_.core).seq = (s.core c.by_.core).seq + 1 ∧ sameBytes s t)) ∧
    (c.op = .get →
      ∃ (t : State) (g : GlobalRead), Gives (.copyRequest cl) s t ∧ t.reads = s.reads ++ [g] ∧ g.nwords = 32 ∧ g.by_ = c.by_ ∧ sameBytes s t ∧
        (c.linear → g.va = c.lineVa))) ∧
  (∀ (s : State) (l r : List ReadReply) (x : ReadReply) (cl id off : Nat) (ws : List Word) (c : CpCmd),
    s.replies = l ++ x :: r → x.dest = .copy cl id ((List.range 32).map fun i => some (off + 4 * i)) → x.res = .data ws false →
    ws.length = 32 → (s.cluster cl).cpq.find? (fun c => c.id == id) = some c →
    (s.cur.late = false → (∀ y ∈ (s.cluster cl).cpLate, y.line ≠ off / 128) →
      ∃ t : State, Gives (.copyReadReturn l.length) s t ∧ t.replies = l ++ r ∧ (t.mem (.spad cl)).words off 32 = ws ∧
        bytesBut (.spad cl) off 128 s t) ∧
    (s.cur.late = true →
      ∃ (t : State) (ys : List EngLine), Gives (.copyReadReturn l.length) s t ∧ t.replies = l ++ r ∧ sameBytes s t ∧
        (t.cluster cl).cpLate = (s.cluster cl).cpLate ++ ys ∧
        ys.flatMap (fun y => y.words) = (List.range 32).map fun i => (off + 4 * i, ws.getD i 0))) ∧
  (∀ (s : State) (l r : List CpCmd) (d : CpCmd),
    let cl := clusterOf d.peer
    let x := s.cluster cl
    let u : State := { s with deliveries := l ++ r }
    s.deliveries = l ++ d :: r →
    (∀ k id, (s.core d.peer).pkey ≠ d.peerKey → d.from_ = some (s.chip, k, id) →
      Gives (.cpputDelivery l.length) s (u.linesEnded k id 3)) ∧
    (∀ w, w = x.wins[cpWin d.w % 16]'(Nat.mod_lt _ (by decide)) → (s.core d.peer).pkey = d.peerKey → d.peer < 40960 →
      x.power ≠ .off → w.en = true → d.b1.toNat % 2 ^ 12 + (d.w.toNat / 2 ^ 8 % 2 ^ 12 + 1) ≤ w.nlw.toNat + 1 →
      w.base.toNat + w.nlw.toNat + 1 ≤ 4096 → x.cpq.length < 64 →
      ∃ (t : State) (e : CpCmd), Gives (.cpputDelivery l.length) s t ∧ t.deliveries = l ++ r ∧ (t.cluster cl).cpq = x.cpq ++ [e] ∧
        e.lines = d.lines ∧ e.by_ = d.by_ ∧ e.b0 = w32 (128 * (w.base.toNat + d.b1.toNat % 2 ^ 12)) ∧
        e.peer = coreOfCluster cl w.tcore.toNat ∧ sameBytes s t ∧
        ∃ h : Word, e.hw = some h ∧ h.toNat % 2 ^ 16 = w.entry.toNat ∧ h.toNat / 2 ^ 16 % 2 ^ 6 = w.prio.toNat ∧
          h.getLsbD 22 = true ∧ h.getLsbD 23 = false ∧ h.toNat / 2 ^ 24 % 2 ^ 7 = w.utag.toNat)) ∧
  (∀ (s : State) (cl : Nat) (l r : List CpCmd) (c : CpCmd),
    (s.cluster cl).power = .on → (s.cluster cl).cpq = l ++ c :: r → c.op ≠ .deliver →
    (c.op = .put → c.finished = true) → (c.op ≠ .put → c.allIssued = true ∧ c.open_ = 0) →
    let whole : Nat := if c.op = .put ∧ c.status = 3 then 0 else (c.prog.filter fun x => x.left == 0 && x.faults == 0).length
    ∃ t : State, Gives (.copyCompletion cl l.length) s t ∧ (t.cluster cl).cpq = l ++ r ∧
      ((∀ y ∈ (s.cluster cl).cpLate, y.cmd ≠ c.id) → sameBytes s t) ∧ (∀ y ∈ (t.cluster cl).cpLate, y.cmd ≠ c.id) ∧
      ∀ hw, c.hw = some hw → ∃ m, t.net = s.net ++ [m] ∧ carriesHandler m hw ∧ m.ans = true ∧
        m.dcore = BitVec.ofNat 16 c.by_.core ∧ m.dkey = c.by_.key ∧ m.pid = c.by_.pid ∧ m.stag = c.by_.tag ∧
        m.body = [w32 c.status, w32 whole, w32 (c.prog.filter fun x => x.p).length, w32 c.faulted]) ∧
  (∀ (s : State) (cl k id : Nat) (l r : List CpCmd) (c : CpCmd) (hw : Word),
    (s.cluster cl).power = .on → (s.cluster cl).cpq = l ++ c :: r → c.op = .deliver → 32 * c.lines.length ≤ c.next →
    c.open_ = 0 → c.hw = some hw → hw.getLsbD 22 = true → c.from_ = some (s.chip, k, id) →
    ∃ (t : State) (m : Msg), Gives (.copyCompletion cl l.length) s t ∧ t.net = s.net ++ [m] ∧ carriesHandler m hw ∧ m.ans = true ∧
      m.kind = 0 ∧ m.nw = 6 ∧ m.dcore = BitVec.ofNat 16 c.peer ∧ m.score = c.by_.lcore ∧ m.schip = c.by_.rank ∧
      m.stag = c.by_.tag ∧ m.seq = c.aseq ∧
      m.body = [w32 (c.w.toNat / 2 ^ 22 % 16), w32 (c.b1.toNat % 2 ^ 12), w32 (c.w.toNat / 2 ^ 8 % 2 ^ 12 + 1),
        w32 (c.lines.filter fun x => x.p).length, c.by_.lcore.setWidth 32, c.by_.rank.setWidth 32] ∧
      (∀ y ∈ (t.cluster k).cpq, y.id = id → y.finished = true) ∧ (∀ y ∈ (t.cluster cl).cpLate, y.cmd ≠ c.id)) ∧
  (∀ (s : State) (cl i : Nat) (c : CpCmd) (since : Nat),
    (s.cluster cl).power = .on → (s.cluster cl).cpq[i]? = some c → c.op = .fst → c.allIssued = false →
    waitsLine s cl c = true → c.emptySince = some since → since + 2 ^ 20 ≤ s.now →
    ∃ t e, Gives (.waitTimeout cl i) s t ∧ (t.cluster cl).cpq[i]? = some e ∧ e.allIssued = true ∧ e.id = c.id ∧
      e.status = (if c.status = 0 then 4 else min c.status 4) ∧ sameBytes s t)

/-- The matrix engine (R166, R167, R169, R172, R178 to R191, R270, R271). A governor with the credit grants the oldest request of
its queue and takes the charge off; under a thermal warning it grants none. MXCFG gives its tile mode and PN, zero values, an
empty mask and a count of 0. An INT8 MXMUL with leave adds the exact sum of products to each element, or replaces it, modulo
2^32; a floating-point or MX one adds the exact, scaled sum of each chunk with one rounding; a CF32 one adds each product to a
quadruple in two parts. MXLD copies words into rows, and their lines' poison into the mask. MXDR scales each element, clamps it
and rounds it once to its output format; in a late turn its writes perform afterwards (R125; the turns are the model's:
assumption 12); a CF32 drain rounds each component in the mode of the command (the model's reading: assumption 76). A command
whose tile has another mode changes no tile and no memory and completes with status 2; one whose replays are exhausted, by
MXRETRY of the issuing core (whose it is, is the model's reading: assumption 75), poisons every row, and keeps the values.
MXDRA holds its engine until its add has arrived. A drain-add with another key is refused with status 3; one that fits enters
its peer's queue, and there adds its values to the tile, with one rounding or modulo 2^32. -/
def Obligations.MatrixEngineEvents : Prop :=
  (∀ (s : State) (die cl : Nat) (r : List Nat),
    (s.die die).leaveQ = cl :: r →
    ((s.die die).warn = true → Gives (.leaveGrant die) s s) ∧
    ((s.die die).warn = false → 0 < s.rate die → (s.cluster cl).power = .on →
      (min (s.waitingCharge cl) (4096 * s.rate die) : Nat) ≤ s.credit die →
      ∃ t : State, Gives (.leaveGrant die) s t ∧ (t.die die).leaveQ = r ∧ t.credit die = s.credit die - s.waitingCharge cl ∧
        (t.cluster cl).mxRun = true ∧ (t.cluster cl).wlvSince = none ∧ (t.cluster cl).mxq = (s.cluster cl).mxq ∧ sameBytes s t)) ∧
  (∀ (s : State) (cl : Nat) (c : MxCmd) (r : List MxEntry),
    let x := s.cluster cl
    let n := wTile c.w
    let old (k i j : Nat) : Word := if wAcc c.w then (x.tile (n + k)).val (64 * i + j) else 0
    let ready : Prop := x.mxRun = true ∧ x.mxMiss = 0 ∧ x.spad.errs = [] ∧ x.mxViews = [] ∧ clusterOf c.by_.core = cl
    let row (b : Bool) (i : Nat) : List Nat := (operandOf c b).row s cl i
    let at_ (j i : Nat) : Nat := rowWordAt c.a0 c.a1 j i
    x.mxq = .cmd c :: r → x.power = .on → x.mxWait = [] → x.mxDone = none →
    (c.op = .cfg → c.w.toNat / 8 % 4 < 2 → x.isQuad n = false →
      ∃ t y, Gives (.matrixCommandEnd cl) s t ∧ (t.cluster cl).mxq = r ∧ y = (t.cluster cl).tile n ∧
        y.mode.toNat = c.w.toNat / 8 % 4 ∧ y.pn = c.w.getLsbD 5 ∧ y.mask = 0 ∧ y.xcnt = 0 ∧ (∀ i, y.val i = 0) ∧
        (∀ k, k < 8 → k ≠ n → (t.cluster cl).tile k = x.tile k) ∧ sameBytes s t) ∧
    (c.op = .mul → ready → wKx c.w = false →
      let it := wItype c.w
      let into (t : State) : Prop := Gives (.matrixCommandEnd cl) s t ∧ (t.cluster cl).mxq = r ∧ sameBytes s t
      (it = 7 → (x.tile n).mode = 1 →
        ∃ t, into t ∧ ∀ i j, i < 64 → j < 64 → ((t.cluster cl).tile n).val (64 * i + j) =
          wInt ((old 0 i j).toInt + (((row false i).zip (row true j)).map fun p =>
            (BitVec.ofNat 8 p.1).toInt * (BitVec.ofNat 8 p.2).toInt).sum)) ∧
      (∀ f : Fmt, it = 13 ∨ (it, f) ∈ [(0, Fmt.fp32), (1, .bf16), (2, .fp16), (3, .e4m3), (4, .e5m2), (5, .e2m1), (10, .e4m3),
          (11, .e5m2), (12, .e2m1)] → (x.tile n).mode = 0 →
        ∃ t, into t ∧ ∀ i j, i < 64 → j < 64 → floatProduct it f (row false i) (row true j)
          ((operandOf c false).scaleRow s cl i) ((operandOf c true).scaleRow s cl j) (wK c.w)
          (old 0 i j) (((t.cluster cl).tile n).val (64 * i + j))) ∧
      (it = 14 → (x.tile n).mode = 2 → x.isQuad n = true → n % 4 = 0 →
        ∃ t, into t ∧ ∀ i j, i < 64 → j < 64 → complexProduct (row false i) (row true j) (wK c.w)
          (fun m => old m i j) (fun m => ((t.cluster cl).tile (n + m)).val (64 * i + j)))) ∧
    (c.op = .ld → ready → State.mxFits x c = true →
      ∃ t : State, Gives (.matrixCommandEnd cl) s t ∧ (t.cluster cl).mxq = r ∧ sameBytes s t ∧
        let first := wFirst c.w
        let last := first + wRows c.w
        let wide := wOtype c.w = 14
        ∀ k, k < 4 → (k = 0 ∨ wide) → n % 4 = 0 ∨ ¬wide →
          let y := (t.cluster cl).tile (n + k)
          (∀ i j, i < 64 → j < 64 → (i < first ∨ last ≤ i) →
            y.val (64 * i + j) = (x.tile (n + k)).val (64 * i + j) ∧ y.mask.getLsbD i = (x.tile (n + k)).mask.getLsbD i) ∧
          (∀ i j, i < 64 → j < 64 → first ≤ i → i < last →
            y.val (64 * i + j) = (if ¬wide then x.spad.word (at_ (i - first) j) else if k = 0 then x.spad.word (at_ (i - first) (2 * j))
              else if k = 2 then x.spad.word (at_ (i - first) (2 * j + 1)) else 0) ∧
            (y.mask.getLsbD i = true ↔ ∃ m, m < (if wide then 128 else 64) ∧ (x.spad.line (at_ (i - first) m / 128)).p = true)) ∧
          y.xcnt = (x.tile (n + k)).xcnt) ∧
    (c.op = .dr → ready → State.mxFits x c = true → c.rnd ≠ .sr →
      let wide : Bool := wOtype c.w == 14
      let f : Fmt := if wide then .fp32 else outFmt (wOtype c.w)
      let words := (if wide then 128 else 64) * f.width / 32
      let written (t : State) (j k : Nat) : Nat :=
        ((t.mem (.spad cl)).word (at_ j (k * f.width / 32))).toNat / 2 ^ (k * f.width % 32) % 2 ^ f.width
      s.cur.late = false →
      (∀ j i j' i', j < wRows c.w → j' < wRows c.w → i < words → i' < words → at_ j i = at_ j' i' → j = j' ∧ i = i') →
      ∃ t : State, Gives (.matrixCommandEnd cl) s t ∧ (t.cluster cl).mxq = r ∧ (t.cluster cl).gen = x.gen ∧
        (∀ q a, ¬(q = .spad cl ∧ ∃ j i, j < wRows c.w ∧ i < words ∧ at_ j i ≤ a ∧ a < at_ j i + 4) →
          (t.mem q).byte a = (s.mem q).byte a) ∧
        (∀ k, k < 8 → (t.cluster cl).tile k = { x.tile k with mask := ((t.cluster cl).tile k).mask }) ∧
        (∀ j i, j < wRows c.w → i < words → ((t.mem (.spad cl)).line (at_ j i / 128)).fe = true) ∧
        ∀ j k, j < wRows c.w → k < 64 →
          let part (m : Nat) : Word := (x.tile (n + m)).val (64 * (wFirst c.w + j) + k)
          (wide = false → (x.tile n).mode = 1 ∨ expField (part 0) ≠ 255 →
            drains c f ((x.tile n).mode == 1) (part 0) (written t j k)) ∧
          (wide = true → n % 4 = 0 → drainsComplex c part (written t j (2 * k)) (written t j (2 * k + 1)))) ∧
    (c.op = .dr → ready → State.mxFits x c = true → s.cur.late = true →
      ∃ t : State, Gives (.matrixCommandEnd cl) s t ∧ (t.cluster cl).mxq = x.mxq ∧ (t.cluster cl).mxDone = some (.writes 0) ∧ sameBytes s t) ∧
    (c.op = .dra → ready → State.mxFits x c = true →
      ∃ t a, Gives (.matrixCommandEnd cl) s t ∧ (t.cluster cl).mxq = x.mxq ∧ (t.cluster cl).mxDone = some .transfer ∧
        t.adds = s.adds ++ [a] ∧ a.cmd = c ∧ a.xcnt = (x.tile n).xcnt ∧ a.rows.length = wRows c.w ∧ sameBytes s t ∧
        ∀ j k, j < wRows c.w → k < 64 → wOtype c.w = 6 → (x.tile n).mode = 1 → wAct c.w = 0 → wScale c.w = 0 →
          (a.rows.getD j []).getD k (.int 0) = .int ((x.tile n).val (64 * (wFirst c.w + j) + k))) ∧
    (c.op ≠ .cfg → c.op ≠ .dra → x.mxRun = true → State.mxFits x c = false → ∀ hw, c.hw = some hw →
      ∃ (t : State) (m : Msg), Gives (.matrixCommandEnd cl) s t ∧ (t.cluster cl).mxq = r ∧ (t.cluster cl).tiles = x.tiles ∧ sameBytes s t ∧
        t.net = s.net ++ [m] ∧ carriesHandler m hw ∧ m.ans = true ∧ m.dcore = BitVec.ofNat 16 c.by_.core ∧
        m.body = [2, (x.tile n).xcnt, (x.tile n).mask.extractLsb' 0 32, (x.tile n).mask.extractLsb' 32 32]) ∧
    (c.op = .ld ∨ c.op = .mul → x.mxRun = true → State.mxFits x c = true → x.isQuad n = false →
      (s.core c.by_.core).mxretry.toNat < x.mxMiss →
      ∃ t : State, Gives (.matrixCommandEnd cl) s t ∧ (t.cluster cl).mxq = r ∧ sameBytes s t ∧
        (t.cluster cl).tile n = { x.tile n with mask := BitVec.allOnes 64 } ∧
        (t.cluster cl).repl = x.repl + w32 (s.core c.by_.core).mxretry.toNat)) ∧
  (∀ (s : State) (l r : List DrainAdd) (a : DrainAdd),
    let cl := clusterOf a.cmd.peer
    let own := clusterOf a.cmd.by_.core
    let x := s.cluster cl
    let key := (s.core (coreOfCluster cl 0)).pkey
    let freed (t : State) : Prop := ∀ q, (s.cluster own).mxDone = some .transfer → (s.cluster own).mxq = .cmd a.cmd :: q →
      (s.cluster own).mxWait = [] → own ≠ cl → (t.cluster own).mxq = q ∧ (t.cluster own).mxDone = none
    let left (q : List MxEntry) : List MxEntry :=
      if own = cl ∧ x.mxDone = some .transfer ∧ x.mxq.head? = some (.cmd a.cmd) then q.tail else q
    s.adds = l ++ a :: r →
    (key ≠ a.cmd.peerKey → (own = cl → x.mxWait = []) → ∀ hw, a.cmd.hw = some hw →
      ∃ (t : State) (m : Msg), Gives (.drainAddArrival l.length) s t ∧ t.adds = l ++ r ∧ (t.cluster cl).mxq = left x.mxq ∧ t.net = s.net ++ [m] ∧
        m.body = [3, 0, 0, 0] ∧ freed t) ∧
    (key = a.cmd.peerKey → x.power ≠ .off → x.mxq.length < 32 → x.mxWait = [] →
      ∃ t : State, Gives (.drainAddArrival l.length) s t ∧ t.adds = l ++ r ∧ (t.cluster cl).mxq = left (x.mxq ++ [.add a]) ∧ freed t ∧
        sameBytes s t)) ∧
  (∀ (s : State) (cl : Nat) (a : DrainAdd) (r : List MxEntry),
    let x := s.cluster cl
    let n := wPeer a.cmd.w
    let y := x.tile n
    let mode : BitVec 2 := if wOtype a.cmd.w = 0 then 0 else 1
    x.mxq = .add a :: r → x.power = .on → x.mxWait = [] →
    (y.mode ≠ mode → ∃ t : State, Gives (.drainAddApply cl) s t ∧ (t.cluster cl).mxq = r ∧ (t.cluster cl).tiles = x.tiles) ∧
    (y.mode = mode → x.mxMiss = 0 →
      ∃ t z, Gives (.drainAddApply cl) s t ∧ (t.cluster cl).mxq = r ∧ z = (t.cluster cl).tile n ∧ z.mask = y.mask ||| a.mask ∧
        z.xcnt.toNat = min (y.xcnt.toNat + a.xcnt.toNat) (2 ^ 32 - 1) ∧ sameBytes s t ∧
        ∀ i j row, a.rows[i]? = some row → j < 64 → wFirst a.cmd.w + i < 64 →
          let was := y.val (64 * (wFirst a.cmd.w + i) + j)
          let now := z.val (64 * (wFirst a.cmd.w + i) + j)
          (∀ v, row[j]? = some (.int v) → now = was + v) ∧
          (row[j]? = some (.fp .nan) ∨ (∃ v, row[j]? = some (.fp v) ∧ wordNan was) → now = 0x7FC00000) ∧
          (∀ neg m p, row[j]? = some (.fp (.fin neg m p)) → expField was ≠ 255 →
            ∃ fl, rounded .fp32 .rne false (neg && m == 0 && was == 0x80000000)
              (wordVal was + (if neg then -1 else 1) * (m : ℝ) * (2 : ℝ) ^ p) now.toNat fl)))

/-- The distributor (R220 to R227, R230, R231). A launch message whose record and arguments can be read, and whose record
is well formed, free of overlap and within the sump's room, joins the queue under the next identifier. The head of the
queue that fits is placed: each cluster in launch order holds the launch, its code and its cores' logical numbers under
one new key, which is not 0 and is the key of no placed launch (R225); a cluster that was freed before a pre-emption is not placed
again, and one with an image gets back from it its memory, sidebands, tiles and messages, and the barriers, the generator, the
windows and the control registers of R230, and with SVE = 1 a restore notice at each core that has not retired. Requests 0 and 1 begin a release of the cluster or of the launch, request 2 a pre-emption, request 3 takes a
queued launch out; one that is not permitted is refused. A head that does not fit in the clusters that are free or drain pre-empts
one launch of a lower level.
A drain goes from phase 1 to 2; phase 2 lasts while a context or the matrix queue is busy, and a save then keeps the copy
commands that have not started, in service order, and sends the drain notices of phase 3, where SVE = 1 and the page of the image has RD
and WR (R227, R228); phase 3 lasts until they are handled; in phase 4 the keys become 0; in phase 5 the cores leave the domain once their
last arrival may be reported; phase 6 writes the image of R228, none once a release or a trip has ended
the save (R272) or where a page has no entry; phase 7 resets and frees the cluster, sends the messages that no image holds
to the supervisor with DIV set, and the last cluster of a pre-empted launch puts it back at the head of its level. How undispatched
lines of a supervisor queue, excess copy commands and the ages of restored ones fare, and a launch with SVE = 0, are the model's
choices (assumptions 90, 102, 103). A die reports its free clusters; one with a retired core is not free (R246). -/
def Obligations.LaunchEvents : Prop :=
  (∀ (s : State) (m : Msg) (rest : List Msg),
    let entry (n : Nat) : Prop := m.kind = 0 ∧ m.entry.toNat = n
    let refused (i : Instr) : Prop := ∃ t : State, Gives i s t ∧ t.dist.inbox = rest ∧ t.dist.placed = s.dist.placed ∧
      t.dist.queue = s.dist.queue ∧ t.clusters = s.clusters ∧ sameBytes s t
    s.dist.inbox = m :: rest →
    (m.kind = 5 → (m.pay 2).getLsbD 31 = true →
      (∀ u n, s.distLine m.pid m.stag (m.pay 1 ++ m.pay 0) = (u, .fail n) →
        Gives .launchRequest s { u with dist := { u.dist with inbox := rest, lines := [] } }) ∧
      (∀ u v ws args, s.distLine m.pid m.stag (m.pay 1 ++ m.pay 0) = (u, .done ws) →
        let l := launchOf ws m
        l.runs = m.pid → u.mapValid m.pid = true → l.malformed = false →
        (u.dist.queue ++ u.dist.placed).any l.overlaps = false → u.distLines m.pid m.stag (l.va 7) l.aln = (v, .done args) →
        v.sumpUsed 0 + 128 + 4 * args.length ≤ (v.die 0).sumpQuota →
        ∃ t : State, Gives .launchRequest s t ∧ t.dist.queue = v.dist.queue ++ [{ l with args := args, id := v.dist.nextId }] ∧
          t.dist.nextId = v.dist.nextId + 1 ∧ t.dist.inbox = rest ∧ m.pid ∈ t.live)) ∧
    (s.issuerLaunch m = none → (entry 0 → refused .releaseCluster) ∧ (entry 1 → refused .releaseLaunch)) ∧
    (∀ l j cl, s.issuerLaunch m = some (l, j) → l.preempting = false → l.clusters[j]? = some cl → (s.cluster cl).drain = none →
      entry 0 → ∃ t : State, Gives .releaseCluster s t ∧ t.dist.inbox = rest ∧ (t.cluster cl).drain = some ⟨1, false, []⟩ ∧
        sameBytes s t ∧ ∀ k, k ≠ cl → t.cluster k = s.cluster k) ∧
    (∀ l j, s.issuerLaunch m = some (l, j) → entry 1 → ∃ t : State, Gives .releaseLaunch s t ∧ t.dist.inbox = rest ∧ sameBytes s t ∧
      (∀ c ∈ l.left, ∃ d, (t.cluster c).drain = some d ∧ d.save = false) ∧ ∀ c, c ∉ l.left → t.cluster c = s.cluster c) ∧
    (s.isSup m.pid = false → (entry 2 → refused .preemptLaunch) ∧ (entry 3 → refused .removeLaunch)) ∧
    (∀ l, s.named m = some l → l.preemptible = true → s.undrained l ≠ [] → entry 2 →
      ∃ t : State, Gives .preemptLaunch s t ∧ t.dist.inbox = rest ∧ sameBytes s t ∧
        ∀ c ∈ s.undrained l, (t.cluster c).drain = some ⟨1, true, []⟩) ∧
    (∀ l, s.named m = some l → l ∈ s.dist.queue → entry 3 →
      ∃ t : State, Gives .removeLaunch s t ∧ t.dist.inbox = rest ∧ (∀ x ∈ t.dist.queue, x.id ≠ l.id) ∧
        (∀ x ∈ s.dist.queue, x.id ≠ l.id → x ∈ t.dist.queue) ∧ t.dist.placed = s.dist.placed ∧ t.clusters = s.clusters) ∧
    (∀ l, s.named m = some l → (∀ x ∈ s.dist.queue, x.id ≠ l.id) → entry 3 →
      ∃ t : State, Gives .removeLaunch s t ∧ sameBytes s t ∧ (∀ c ∈ l.left, ∃ d, (t.cluster c).drain = some d ∧ d.save = false) ∧
        ∀ x ∈ t.dist.placed, x.id = l.id → x.done = (if l.done = 3 then 3 else 2))) ∧
  (∀ (s w u : State) (l k : Launch) (all : List Nat) (code : List Word),
    let cls := (all.zip (List.range all.length)).filter fun x => !l.gone.contains x.2
    s.headLaunch = some l → pickClusters l s.freeClusters = some all → all.Nodup → (∀ c ∈ all, c < 5120) →
    s.dist.placed.length < 65535 → s.fetchImages l = (w, some k) →
    w.distLines l.runs (BitVec.ofInt 16 ((w.domain l.runs).c + 1)) (l.va 4) ((2 * l.npar + 127) / 128) = (u, .done code) →
    ∃ t x, Gives .placement s t ∧ (∀ y ∈ t.dist.queue, y.id ≠ l.id) ∧ x ∈ t.dist.placed ∧ x.id = l.id ∧ x.clusters = all ∧
      x.left = cls.map (·.1) ∧ x.gone = l.gone ∧ x.key ≠ 0 ∧ (∀ y ∈ s.dist.placed, y.key ≠ x.key) ∧ ∀ cl j, (cl, j) ∈ cls →
        (t.cluster cl).placed = some (l.id, j) ∧ (t.cluster cl).code = State.codeTable l.npar code ∧
        (t.cluster cl).restoring = l.saved ∧
        (∀ c, c < 8 → (t.core (coreOfCluster cl c)).pkey = x.key ∧ (t.core (coreOfCluster cl c)).pid = l.runs ∧
          (t.core (coreOfCluster cl c)).lcore = BitVec.ofNat 16 (l.lbase + 8 * j + c)) ∧
        -- the image of the launch cluster, line by line, where its page lies on this chip
        ∀ im, k.images.find? (fun y => y.1 == j) = some (j, im) → u.gmem.errs = [] →
          let line (n : Nat) : Option Nat := u.imageLine k j n
          let side (n a b : Nat) (x : Side) : Prop :=
            let w := u.gmem.word (b + 4 * (n % 512 / 16))
            x = ⟨w.getLsbD (2 * (n % 16)), w.getLsbD (2 * (n % 16) + 1) || (u.gmem.line (a / 128)).p⟩
          (∀ c i a b, c < 8 → i < 192 → line (192 * c + i) = some a → line (6912 + (192 * c + i) / 512) = some b →
            (t.mem (.tcm (coreOfCluster cl c))).words (128 * i) 32 = u.gmem.words a 32 ∧
            side (192 * c + i) a b ((t.mem (.tcm (coreOfCluster cl c))).line i)) ∧
          (∀ i a b, i < 4096 → line (1536 + i) = some a → line (6912 + (1536 + i) / 512) = some b →
            (t.mem (.spad cl)).words (128 * i) 32 = u.gmem.words a 32 ∧ side (1536 + i) a b ((t.mem (.spad cl)).line i)) ∧
          (∀ (q : Fin 8) n a, n < 4096 → line (5632 + 128 * q.val + n / 32) = some a →
            Tab.look 0 (t.cluster cl).tiles[q].vals n = u.gmem.word (a + 4 * (n % 32))) ∧
          (∀ c (at_ : Nat → Nat), c < 8 → (∀ n, n < 32 → line (6656 + 32 * c + n) = some (at_ n)) →
            (t.core (coreOfCluster cl c)).buf.map Slot.msg =
              State.msgsOf 64 ((List.range 32).flatMap fun n => u.gmem.words (at_ n) 32)) ∧
          (t.cluster cl).bars = im.cluster.bars ∧ (t.cluster cl).gen = im.cluster.gen ∧ (t.cluster cl).wins = im.cluster.wins ∧
          (t.cluster cl).clthr = im.cluster.clthr ∧
          (∀ c old, c < 8 → im.cores[c]? = some old →
            let y := t.core (coreOfCluster cl c)
            y.budmax = old.budmax ∧ y.redlim = old.redlim ∧ y.stquota = old.stquota ∧ y.q = old.stquota ∧ y.k = 0 ∧
            y.chkcnt = old.chkcnt ∧ y.fqBase = old.fqBase ∧ y.fqEn = old.fqEn) ∧
          (l.sve = true → ∀ c, c < 8 → (t.core (coreOfCluster cl c)).ret = false → ∃ m ∈ t.net,
            m.dcore.toNat = coreOfCluster cl c ∧ m.dkey = x.key ∧ m.isNotice 1 = true)) ∧
  (∀ (s : State) (h v : Launch),
    let free := s.clusters.filterMap fun e => if s.isFree e.1 then some e.1 else none
    let soon := free ++ s.dist.placed.flatMap fun l => l.left.filter fun c => (s.cluster c).drain.isSome
    let more := (s.dist.placed.filter fun l => l.preemptible && decide (l.prio < h.prio)).flatMap s.undrained
    s.headLaunch = some h → pickClusters h soon = none → (pickClusters h (soon ++ more)).isSome → s.nextVictim h.prio = some v →
    v.preemptible = true ∧ v.prio < h.prio ∧ ∃ t : State, Gives .preemption s t ∧ sameBytes s t ∧
      ∀ c ∈ s.undrained v, (t.cluster c).drain = some ⟨1, true, []⟩) ∧
  (∀ (s : State) (cl : Nat) (d : Drain) (id : Word) (j : Nat),
    (s.cluster cl).drain = some d → (s.cluster cl).placed = some (id, j) → (∃ l ∈ s.dist.placed, l.id = id) →
    (s.cluster cl).power = .on →
    (d.phase = 1 → ∃ t : State, Gives (.drainPhase cl) s t ∧ (t.cluster cl).drain = some { d with phase := 2 } ∧ sameBytes s t) ∧
    (d.phase = 4 → ∃ t : State, Gives (.drainPhase cl) s t ∧ (t.cluster cl).drain = some { d with phase := 5 } ∧ sameBytes s t ∧
      ∀ c ∈ coresOf cl, (t.core c).pkey = 0) ∧
    (d.phase = 6 → d.save = false → ∃ t : State, Gives (.drainPhase cl) s t ∧ (t.cluster cl).drain = some { d with phase := 7 } ∧
      sameBytes s t ∧ t.dist = s.dist ∧ t.wireOut = s.wireOut)) ∧
  (∀ (s : State) (cl : Nat) (d : Drain) (id : Word) (j : Nat) (l : Launch),
    let x := s.cluster cl
    let goes (t : State) (n : Nat) : Prop := Gives (.drainPhase cl) s t ∧ ∃ y, (t.cluster cl).drain = some y ∧ y.phase = n ∧ y.save = d.save
    let idle (c : Nat) : Prop := ∀ k ∈ [1, 2, 3, 4, 5, 6, 7], (s.ctx c k).isFree = true
    cl < 5120 → x.drain = some d → x.placed = some (id, j) → s.dist.placed.find? (fun l => l.id == id) = some l → x.power = .on →
    (d.phase = 2 →
      ((∃ c ∈ coresOf cl, ¬idle c) ∨ x.mxq ≠ [] → ∃ t, goes t 2) ∧
      ((∀ c ∈ coresOf cl, idle c) → x.mxq = [] → x.mxWait = [] → x.cpWait = [] → (∀ c ∈ x.cpq, State.drainRuns c = false) →
        (d.save = true → x.trans = none) →
        let notified : Prop := d.save = true ∧ l.sve = true ∧ s.imageOpen l j = true
        ∃ t y, goes t (if notified then 3 else 4) ∧ sameBytes s t ∧ (t.cluster cl).drain = some y ∧ (t.cluster cl).cpq = [] ∧
          (d.save = true → y.kept.Perm (d.kept ++ x.cpq.map fun c => { c with views := [] }) ∧
            y.kept.Pairwise fun a b => a.eff s.now ≤ b.eff s.now) ∧
          (¬notified → t.net = s.net) ∧
          (notified → ∀ c ∈ coresOf cl, (s.core c).ret = false → ∃ m ∈ t.net,
            m.dcore.toNat = c ∧ m.dkey = (s.core c).pkey ∧ m.isNotice 0 = true))) ∧
    (d.phase = 3 →
      let done (c : Nat) : Prop := idle c ∧ noticePending s c 0 = false
      ((∀ c ∈ coresOf cl, done c) → ∃ t, goes t 4 ∧ sameBytes s t ∧ t.net = s.net) ∧
      ((∃ c ∈ coresOf cl, ¬done c) → Gives (.drainPhase cl) s s)) ∧
    (d.phase = 5 →
      let next := if d.save then 6 else 7
      ((∀ c ∈ coresOf cl, (s.core c).joined = none) → ∃ t, goes t next ∧ sameBytes s t ∧ t.domains = s.domains) ∧
      (∀ k ∈ coresOf cl, (∀ c ∈ coresOf cl, c ≠ k → (s.core c).joined = none) → (s.core k).joined ≠ none →
        (s.settled k (s.core k).pid (s.core k).s = true → ((s.core k).s.toNat : Int) - 1 ≤ (s.domain (s.core k).pid).c →
          ∃ t, goes t next ∧ sameBytes s t ∧ (t.core k).joined = none ∧
            ((s.core k).s.toNat, k) ∈ (t.domain (s.core k).pid).reported) ∧
        (s.settled k (s.core k).pid (s.core k).s = false ∨ (s.domain (s.core k).pid).c < ((s.core k).s.toNat : Int) - 1 →
          Gives (.drainPhase cl) s s))) ∧
    (d.phase = 6 → d.save = true →
      ((∃ n, n < 6976 ∧ s.imagePlace l j n = none) → ∃ t, goes t 7 ∧ sameBytes s t ∧
        ∀ y ∈ t.dist.placed, y.id = id → ∀ im ∈ y.images, im.1 ≠ j) ∧
      (∀ a, (∀ n, n < 6976 → s.imageLine l j n = some (a + 128 * n)) → (∀ c ∈ coresOf cl, (s.mem (.tcm c)).errs = []) →
        (s.mem (.spad cl)).errs = [] →
        let core (c : Nat) : Nat := coreOfCluster cl c
        ∃ t, goes t 7 ∧ bytesBut .global a (128 * 6976) s t ∧
          let bits (n : Nat) (x : Side) : Prop :=
            let w := t.gmem.word (a + 128 * (6912 + n / 512) + 4 * (n % 512 / 16))
            w.getLsbD (2 * (n % 16)) = x.fe ∧ w.getLsbD (2 * (n % 16) + 1) = x.p
          (∀ c i, c < 8 → i < 192 → t.gmem.words (a + 128 * (192 * c + i)) 32 = (s.mem (.tcm (core c))).words (128 * i) 32 ∧
            bits (192 * c + i) ((s.mem (.tcm (core c))).line i)) ∧
          (∀ i, i < 4096 → t.gmem.words (a + 128 * (1536 + i)) 32 = (s.mem (.spad cl)).words (128 * i) 32 ∧
            bits (1536 + i) ((s.mem (.spad cl)).line i)) ∧
          (∀ (q : Fin 8) n, n < 4096 → t.gmem.word (a + 128 * (5632 + 128 * q.val) + 4 * n) = Tab.look 0 x.tiles[q].vals n) ∧
          (∀ c, c < 8 → t.gmem.words (a + 128 * (6656 + 32 * c)) 1024 =
            ((s.imageMsgs (core c)).flatMap State.slotWords ++ List.replicate 1024 0).take 1024) ∧
          ∃ y ∈ t.dist.placed, y.id = id ∧ ∃ im, (j, im) ∈ y.images ∧ im.cluster = x ∧ im.cores = (coresOf cl).map s.core)) ∧
    (d.phase = 7 → ∃ t : State, Gives (.drainPhase cl) s t ∧ (t.cluster cl).placed = none ∧ (t.cluster cl).drain = none ∧
      (∀ c ∈ coresOf cl, (t.core c).buf = [] ∧ (t.core c).pkey = 0 ∧ ∀ a, (t.mem (.tcm c)).byte a = 0) ∧
      (∀ a, (t.mem (.spad cl)).byte a = 0) ∧ (∀ y ∈ s.dist.placed, y.id ≠ id → y ∈ t.dist.placed) ∧
      ((∃ c ∈ l.left, c ≠ cl) → ∃ y ∈ t.dist.placed, y.id = id ∧ y.left = l.left.filter fun c => c != cl) ∧
      ((∀ c ∈ l.left, c = cl) → (∀ y ∈ t.dist.placed, y.id ≠ id) ∧
        (d.save = true → l.preempting = true → l.gone.length < l.clusters.length →
          ∃ y, t.dist.queue = y :: s.dist.queue ∧ y.id = id ∧ y.saved = true ∧ y.images = l.images ∧ y.gone = l.gone)) ∧
      (d.save = false ∨ (∀ im ∈ l.images, im.1 ≠ j) → ∀ c ∈ coresOf cl, ∀ m ∈ s.imageMsgs c, m.div = false → m.isRecord = false →
        s.gmem.errs = [] → s.mapValid m.pid = true → (s.mapSv m.pid).1 ≠ 0xFFFF →
        ∀ b k, s.resolve m.pid (s.mapSv m.pid).1 (s.mapSv m.pid).2 = .here b k →
        { m with div := true, old0 := m.h0, old1 := m.h1, dcore := b, dkey := k, dchip := s.chip } ∈ t.net))) ∧
  (∀ (s : State) (die : Nat), ∃ t : State, Gives (.freeClusterReport die) s t ∧
    ∀ cl, (dieOfCluster cl = die → (t.cluster cl).reportedFree = s.isFree cl) ∧
      (dieOfCluster cl ≠ die → t.cluster cl = s.cluster cl) ∧ t.isFree cl = s.isFree cl ∧
      ((∃ c ∈ coresOf cl, (s.core c).ret = true) ∨ (s.cluster cl).power ≠ .on ∨ (s.cluster cl).placed.isSome = true →
        s.isFree cl = false))

/-- Power and temperature (R52, R266 to R271). A command during a transition of the cluster that HCLCMD names, or of the one that the
write names (the model's reading: assumption 49), is answered with status 1, one for a cluster that does not exist with 3, and
one that finds no transition with 0. ON begins the return to ON; IDLE and OFF begin the end of ON, and a cluster at rest goes
between IDLE and OFF at once (the model's reading: assumption 49); CYCLE stands still in IDLE and OFF. A reset of a placed
cluster without a retired core is refused with status 2, any other, of an unplaced cluster or of a placed one with a retired
core, leaves the cluster ON and unplaced, its keys and its memories 0. A governor's warning begins at 105 °C and ends below
100 °C, and at 115 °C every cluster of the die is OFF. The budget is written within 900 to 4,200 W. -/
def Obligations.PowerEvents : Prop :=
  (∀ (s : State) (cl : Nat),
    let x := s.cluster cl
    let answer (n : Nat) : State := { s with hostOut := s.hostOut ++ [.status n 0] }
    let commands : List Instr := [.clusterOn cl, .clusterIdle cl, .clusterOff cl, .clusterReset cl]
    let answered (i : Instr) (t : State) : Prop := Gives i s t ∧ t.hostOut = s.hostOut ++ [.status 0 0] ∧
      t.host.clu = BitVec.ofNat 13 cl
    ((s.cluster s.host.clu.toNat).trans.isSome = true ∨ (cl < 5120 ∧ x.trans.isSome = true) →
      ∀ i ∈ commands, Gives i s (answer 1)) ∧
    (5120 ≤ cl → (s.cluster s.host.clu.toNat).trans = none → ∀ i ∈ commands, Gives i s (answer 3)) ∧
    (cl < 5120 → x.trans = none → (s.cluster s.host.clu.toNat).trans = none →
      (∃ t, answered (.clusterOn cl) t ∧ t.cluster cl = (if x.power = .on then x else { x with trans := some .wake }) ∧
        sameBytes s t) ∧
      (∃ t, answered (.clusterIdle cl) t ∧ sameBytes s t ∧
        t.cluster cl = (if x.power = .on then { x with trans := some (.leave .idle) }
          else { x with power := .idle, stoppedAt := x.stoppedAt.or (some s.now) })) ∧
      (∃ t, answered (.clusterOff cl) t ∧ sameBytes s t ∧
        t.cluster cl = (if x.power = .on then { x with trans := some (.leave .off) }
          else { x with power := .off, stoppedAt := x.stoppedAt.or (some s.now) })) ∧
      (x.placed.isSome = true → (∀ c ∈ coresOf cl, (s.core c).ret = false) → Gives (.clusterReset cl) s (answer 2)) ∧
      (x.placed = none ∨ (∃ c ∈ coresOf cl, (s.core c).ret = true) →
        ∃ t, answered (.clusterReset cl) t ∧ (t.cluster cl).power = .on ∧ (t.cluster cl).placed = none ∧
        (∀ a, (t.mem (.spad cl)).byte a = 0) ∧ (t.cluster cl).mxq = [] ∧ (t.cluster cl).cpq = [] ∧ (t.cluster cl).ceCnt = 0 ∧
        ∀ c ∈ coresOf cl, (t.core c).pkey = 0 ∧ (t.core c).ret = false ∧ (t.core c).buf = [] ∧
          ∀ a, (t.mem (.tcm c)).byte a = 0)) ∧
    (∀ p, x.trans = some (.leave p) → p ≠ .on →
      (s.stopped cl = true → ∃ t : State, Gives (.clusterClockStop cl) s t ∧ sameBytes s t ∧
        t.cluster cl = { x with trans := none, power := p, stoppedAt := x.stoppedAt.or (some s.now) } ∧
        ∀ n, ({ t with now := n } : State).clusterCycle cl = s.clusterCycle cl) ∧
      (s.stopped cl = false → Gives (.clusterClockStop cl) s s)) ∧
    (x.trans = some .wake → ∃ t : State, Gives (.clusterWake cl) s t ∧ (t.cluster cl).power = .on ∧ (t.cluster cl).trans = none ∧
      sameBytes s t ∧ (t.cluster cl).stoppedAt = none ∧
      ((∀ a, x.stoppedAt = some a → a ≤ s.now) → t.clusterCycle cl = s.clusterCycle cl))) ∧
  (∀ (s : State) (die : Fin 8) (temp : BitVec 8),
    ∃ t : State, Gives (.thermalSample die temp) s t ∧ (t.die die.val).temp = temp ∧
      (105 ≤ temp.toNat → (t.die die.val).warn = true) ∧ (temp.toNat < 100 → (t.die die.val).warn = false) ∧
      (100 ≤ temp.toNat → temp.toNat < 105 → (t.die die.val).warn = (s.die die.val).warn) ∧
      (temp.toNat < 115 → sameBytes s t ∧ t.clusters = s.clusters) ∧
      (115 ≤ temp.toNat → (s.die die.val).temp.toNat < 115 → (t.die die.val).trip = true ∧
        ∀ cl, dieOfCluster cl = die.val → (t.cluster cl).power = .off ∧ ∀ a, (t.mem (.spad cl)).byte a = 0)) ∧
  (∀ (s : State) (v : Word),
    let w := v.toNat % 2 ^ 13
    (w < 900 ∨ 4200 < w → Gives (.powerBudgetWrite v) s { s with hostOut := s.hostOut ++ [.status 3 0] }) ∧
    (900 ≤ w → w ≤ 4200 → ∃ t : State, Gives (.powerBudgetWrite v) s t ∧ t.host.watt.toNat = w ∧
      t.hostOut = s.hostOut ++ [.status 0 0] ∧ sameBytes s t ∧ t.clusters = s.clusters ∧
      ∀ d, d < 8 → t.credit d = min (4096 * (t.rate d : Int)) (s.credit d)))

/-- The fabric (R92, R137, R253 to R259, R262, R263, R273). A frame on a port that is down is lost; one that fails MACsec counts in
HSECERR, one of another version in HDROP; a number delivered before is only acknowledged, the next number delivers its
message to the core that the map names, a later one is held. An acknowledgement frees a place of the window, which the packet
that waits takes, but while an exchange goes on, or while a command that it must follow is undelivered. A packet without one for
16 µs is sent again, and after 8 resends the connection is marked unreachable, at the eighth where no port is up; a step-tree
packet goes on, with event 44 after every 8 resends, and its step is stretched. After the end of boot a port comes up or goes
down alone; the first one that comes up carries the packets held. HUNREACH exchanges a packet for each marked connection: the
receiver takes every earlier number as filled, and the sender learns its H. A port that encrypts takes a key of 32 bytes; the
host port is port 18. The host gets the waiting record with the lowest RSEQ. The cycle in which a resend falls, that an
encrypted frame on a plain port counts in HSECERR, that REKEY is refused with status 2 on a plain port, and that packets wait
during an exchange are the model's own (assumption 51). -/
def Obligations.FabricEvents : Prop :=
  (∀ (s : State) (f : Frame) (rest : List Frame),
    let u : State := { s with frames := rest }
    let i : Instr := .fabricPacketReceive
    let secure : Prop := f.encrypted = (s.portSet f.port).encrypt ∧ (f.encrypted = true → f.integrity = true)
    let formed : Prop := f.version = 1 ∧ f.supported = true ∧ f.ptype = f.pkt.ptype ∧ f.cls = f.pkt.cls ∧ f.ptype < 7
    s.frames = f :: rest →
    (s.links.getLsbD f.port.val = false → Gives i s u) ∧
    (s.links.getLsbD f.port.val = true →
      (¬secure → s.host.hsecerr ≠ 0xFFFFFFFF → Gives i s { u with host := { s.host with hsecerr := s.host.hsecerr + 1 } }) ∧
      (secure → f.version ≠ 1 ∨ f.supported = false ∨ 7 ≤ f.ptype → s.host.hdrop ≠ 0xFFFFFFFF →
        Gives i s { u with host := { s.host with hdrop := s.host.hdrop + 1 } }) ∧
      (∀ h, secure → formed → s.recvs.find? (fun r => r.chip == f.chip && r.cls == f.cls) = some ⟨f.chip, f.cls, h, []⟩ →
        (f.seq = h → ∃ t : State, Gives i s t ∧ t = { u with wireOut := t.wireOut }) ∧
        (∀ m c k, f.seq = h + 1 → f.pkt = .msg m → m.copy = none → m.goal ≠ 0xFFFF → s.gmem.errs = [] → s.mapValid m.pid = true →
          s.coreOfL m.pid m.goal.toNat = some (c, k) →
          ∃ t : State, Gives i s t ∧ t.net = s.net ++ [{ m with dcore := c, dkey := k, dchip := s.chip }] ∧
            (⟨f.chip, f.cls, h + 1, []⟩ : Recv) ∈ t.recvs ∧ sameBytes s t) ∧
        (∀ k n, f.seq = h + 1 → f.pkt = .exchange k false n → k ≠ 3 → ∃ t : State, Gives i s t ∧ sameBytes s t ∧ t.net = s.net ∧
          (⟨f.chip, k, n - 1, []⟩ : Recv) ∈ t.recvs ∧ ∀ r ∈ t.recvs, r.chip = f.chip → r.cls = k → r = ⟨f.chip, k, n - 1, []⟩) ∧
        (∀ k v n l, f.seq = h + 1 → f.pkt = .exchange k true v → (s.conn f.chip k).learned = (n, none) :: l →
          (s.conn f.chip k).waiting = [] → ∃ t : State, Gives i s t ∧ sameBytes s t ∧ t.net = s.net ∧
          (t.conn f.chip k).learned = (n, some v) :: l) ∧
        (f.seq = h + 2 → ∃ t : State, Gives i s t ∧ t.net = s.net ∧ t.stores = s.stores ∧ t.reads = s.reads ∧ t.wireOut = s.wireOut ∧
          (⟨f.chip, f.cls, h, [(h + 2, f.pkt)]⟩ : Recv) ∈ t.recvs)))) ∧
  (∀ (s : State) (chip : BitVec 22) (cls : Fin 4) (c : Conn), c = s.conn chip cls →
    (∀ seq, (∀ x ∈ c.unacked, x.seq ≠ seq) → Gives (.acknowledgementReceive chip cls seq) s s) ∧
    (∀ x ∈ c.unacked, c.waiting = [] ∨ c.exchanging = true →
      ∃ t : State, Gives (.acknowledgementReceive chip cls x.seq) s t ∧ (t.conn chip cls).waiting = c.waiting ∧
        (t.conn chip cls).unacked = c.unacked.filter fun y => y.seq != x.seq) ∧
    (∀ p, ∀ x ∈ c.unacked, c.waiting = [p] → c.exchanging = false → c.unacked.length ≤ 1024 →
      ∃ t : State, Gives (.acknowledgementReceive chip cls x.seq) s t ∧
        (s.mustFollow chip cls p = true → (t.conn chip cls).waiting = [p]) ∧
        (s.mustFollow chip cls p = false → (t.conn chip cls).waiting = [] ∧ (t.conn chip cls).next = c.next + 1 ∧
          (t.conn chip cls).unacked =
            (c.unacked.filter fun y => y.seq != x.seq) ++ [⟨c.next, 0, s.now, decide (s.links = 0), p⟩])) ∧
    (∀ x, c.unacked.find? (fun x => decide (20800 ≤ s.now - x.sentAt)) = some x →
      let again (pk : Packet → Packet) (t : State) : Prop := Gives (.resendTimeout chip cls) s t ∧
        (t.conn chip cls).unreachable = c.unreachable ∧ (t.conn chip cls).unacked = c.unacked.map fun y =>
          if y.seq = x.seq then { y with resends := y.resends + 1, sentAt := s.now, held := decide (s.links = 0), pkt := pk y.pkt }
          else y
      (x.resends < 7 ∨ (x.resends = 7 ∧ s.links ≠ 0) ∨ (cls = 3 ∧ x.resends % 8 ≠ 0) → ∃ t, again (fun p => p) t ∧
        t.hostRecs = s.hostRecs) ∧
      (∀ pid n late live, cls = 3 → x.resends ≠ 0 → x.resends % 8 = 0 → x.pkt = .report pid n late live →
        s.hostRecs.length < 1024 → ∃ t, again (fun _ => .report pid n true live) t ∧ (n, 2 ^ 25 + 1) ∈ (t.domain pid).reported ∧
          t.hostRecs.length = s.hostRecs.length + 1) ∧
      (8 ≤ x.resends ∨ (x.resends = 7 ∧ s.links = 0) → cls ≠ 3 →
        ∃ t : State, Gives (.resendTimeout chip cls) s t ∧ (t.conn chip cls).unreachable = true ∧ (t.conn chip cls).unacked = [])) ∧
    ((∀ x ∈ c.unacked, s.now - x.sentAt < 20800) → Gives (.resendTimeout chip cls) s s)) ∧
  (∀ (s : State) (port : Fin 18) (up : Bool),
    (s.host.booted = false → Gives (.portStateChange port up) s s) ∧
    (s.host.booted = true → ∃ t : State, Gives (.portStateChange port up) s t ∧ t.links.getLsbD port.val = up ∧
      (∀ q : Fin 18, q ≠ port → t.links.getLsbD q.val = s.links.getLsbD q.val) ∧ sameBytes s t ∧
      (s.links ≠ 0 ∨ up = false → t = { s with links := t.links }) ∧
      (s.links = 0 → up = true →
        (∀ c ∈ s.conns, ∀ x ∈ c.unacked, x.held = true → (port, c.chip, c.cls, x.seq, x.pkt) ∈ t.wireOut) ∧
        (∀ e ∈ t.wireOut, e ∈ s.wireOut ∨
          ∃ c ∈ s.conns, ∃ x ∈ c.unacked, x.held = true ∧ e = (port, c.chip, c.cls, x.seq, x.pkt)) ∧
        ((s.conns.map fun c => (c.chip, c.cls)).Nodup → ∀ chip cls, t.conn chip cls =
          { s.conn chip cls with unacked := (s.conn chip cls).unacked.map fun x => { x with held := false } })))) ∧
  (∀ (s : State) (chip : BitVec 22), ∃ t : State, Gives (.hunreachWrite chip) s t ∧ t.host.hunreach = chip ∧
    t.hostOut = s.hostOut ++ [.status 0 0] ∧
    ((∀ c ∈ s.conns, c.chip = chip → c.unreachable = false) → t.conns = s.conns) ∧
    (∀ c, s.conns.filter (fun c => c.chip == chip && c.unreachable) = [c] → c.cls ≠ 3 →
      (s.conn chip 3).unacked.length < 1024 → (s.conn chip 3).exchanging = false → (s.conn chip 3).waiting = [] →
      (t.conn chip c.cls).unreachable = false ∧ (t.conn chip c.cls).learned = (c.next, none) :: c.learned ∧
      (t.conn chip c.cls).exchanging = true ∧ (t.conn chip 3).unacked =
        (s.conn chip 3).unacked ++ [⟨(s.conn chip 3).next, 0, s.now, decide (s.links = 0), .exchange c.cls false c.next⟩])) ∧
  (∀ (s : State) (port : Fin 19) (key : List Byte),
    ((s.portSet port).encrypt = false → Gives (.rekey port key) s { s with hostOut := s.hostOut ++ [.status 2 0] }) ∧
    ((s.portSet port).encrypt = true → key.length = 32 → ∃ t : State, Gives (.rekey port key) s t ∧
      t.hostOut = s.hostOut ++ [.status 0 0] ∧ t.portSet port = { s.portSet port with key := key } ∧
      ∀ q, q ≠ port → t.portSet q = s.portSet q)) ∧
  (∀ s : State, s.hostRecs ≠ [] → ∃ t ws, Gives .hostRecordSend s t ∧ ws ∈ s.hostRecs ∧
    (∀ y ∈ s.hostRecs, (ws.getD 4 0).toNat ≤ (y.getD 4 0).toNat) ∧ t.hostOut = s.hostOut ++ [.record ws] ∧
    t.hostRecs = s.hostRecs.erase ws)

/-- Host control and boot (R20, R117, R254, R255, R262 to R266, R269, R273). A frame of the host port is dropped and counted
where R262, R254 or R255 say so, an encrypted one on a plain host port in HSECERR (the model's reading: assumption 51); else its
message is sent, to another chip with DCORE and DKEY 0, and its control frame reads or writes a register. A message is dropped
uncounted before the end of boot, and enters the mesh as it is afterwards (the model's choice: assumption 27). A write of HLOST,
HSECERR or HDROP clears the bits that it names, one of a read-only register changes nothing, one of a number that is not
defined is refused with status 2, and HCLCMD, HPBUD and HUNREACH do what their events do. A sump quota is set up to its
limit. A firmware image is loaded at stages 1 and 2 and verified at stage 3: one that fails is discarded and the stage
repeats with another. Settings are made at stage 4; the end of boot brings the ports up. Attestation answers a nonce of 32
bytes with what R265 lists, in an order that is the model's own, and refuses any other nonce with status 2 (assumption 13);
an image of no bytes is not loaded (assumption 52). A chip reset leaves the values after reset and CYCLE 0 (the model keeps
the chip's number, the content of global memory, its schedule and outputs: assumption 8). -/
def Obligations.HostEvents : Prop :=
  (∀ (s : State) (f : Frame) (r : List Turn),
    let u : State := { turnStart (some (.frame f)) s with turns := r }
    let secure : Prop := f.encrypted = (u.portSet 18).encrypt ∧ (f.encrypted = true → f.integrity = true)
    let formed : Prop := f.version = 1 ∧ f.supported = true ∧ f.ptype = f.pkt.ptype ∧ f.cls = f.pkt.cls ∧ f.ptype < 8
    let reads (reg : Nat) (st : Nat) (v : Word) : Prop :=
      f.pkt = .control reg none → step s = .next { u with hostOut := u.hostOut ++ [.status st v] }
    s.turns = .frame f :: r → f.port = 18 →
    (¬secure → u.host.hsecerr ≠ 0xFFFFFFFF → step s = .next { u with host := { u.host with hsecerr := u.host.hsecerr + 1 } }) ∧
    (secure → f.version ≠ 1 ∨ f.supported = false ∨ 8 ≤ f.ptype → u.host.hdrop ≠ 0xFFFFFFFF →
      step s = .next { u with host := { u.host with hdrop := u.host.hdrop + 1 } }) ∧
    (secure → formed →
      (∀ m, f.pkt = .msg m → (u.host.booted = false → step s = .next u) ∧ (u.host.booted = true →
        (m.dchip = u.chip → step s = .next { u with net := u.net ++ [{ m with copy := none }] }) ∧
        (∀ c n, m.dchip ≠ u.chip → c = u.conn m.dchip m.connClass → n = { m with copy := none, dcore := 0, dkey := 0 } →
          c.unreachable = false → c.exchanging = false → c.waiting = [] → c.unacked.length < 1024 →
          u.mustFollow m.dchip m.connClass (.msg n) = false → ∃ (t : State) (x : Unacked), step s = .next t ∧ t.net = u.net ∧
          (t.conn m.dchip m.connClass).unacked = c.unacked ++ [x] ∧ x.pkt = .msg n))) ∧
      reads 0 0 (w32 u.hostRecs.length) ∧ reads 1 0 u.host.hlost ∧ reads 2 0 (u.links.setWidth 32) ∧
      reads 3 0 u.host.hsecerr ∧ reads 4 0 (u.host.hunreach.setWidth 32) ∧ reads 5 0 u.host.hdrop ∧
      reads 0x10 0 (w32 (u.host.clu.toNat + 2 ^ 13 * u.host.cmd.toNat)) ∧ reads 0x12 0 (u.host.watt.setWidth 32) ∧
      (∀ n, (5 < n ∧ n < 16) ∨ 0x13 < n → reads n 2 0) ∧
      (∀ n v, f.pkt = .control n (some v) → step s = exec (.hostRegisterWrite n v) u))) ∧
  (∀ (s : State) (v : Word) (n : Nat),
    let told (st : Nat) (v : Word) (u : State) : State := { u with hostOut := s.hostOut ++ [.status st v] }
    let writes (reg : Nat) (u : State) : Prop := Gives (.hostRegisterWrite reg v) s u
    let host (h : HostRegs) : State := { s with host := h }
    writes 1 (told 0 (s.host.hlost &&& ~~~v) (host { s.host with hlost := s.host.hlost &&& ~~~v })) ∧
    writes 3 (told 0 (s.host.hsecerr &&& ~~~v) (host { s.host with hsecerr := s.host.hsecerr &&& ~~~v })) ∧
    writes 5 (told 0 (s.host.hdrop &&& ~~~v) (host { s.host with hdrop := s.host.hdrop &&& ~~~v })) ∧
    (n = 0 ∨ n = 2 ∨ n = 0x11 → ∃ x, s.hostReg n = some x ∧ writes n (told 0 x s)) ∧
    ((5 < n ∧ n < 16) ∨ 0x13 < n → writes n (told 2 0 s)) ∧
    (∃ t, writes 0x12 t ∧ Gives (.powerBudgetWrite v) s t) ∧
    (∃ t, writes 4 t ∧ Gives (.hunreachWrite (v.extractLsb' 0 22)) s t) ∧
    (∃ t, writes 0x10 t ∧ Gives
      (let cl := v.toNat % 2 ^ 13
       let cmd := v.toNat / 2 ^ 13 % 4
       if cmd = 0 then Instr.clusterOn cl else if cmd = 1 then .clusterIdle cl else if cmd = 2 then .clusterOff cl
       else .clusterReset cl) s t) ∧
    (∃ t, writes 0x13 t ∧ ∀ d : Fin 8, (t.die d.val).trip = ((s.die d.val).trip && !v.getLsbD (19 + d.val)))) ∧
  (∀ (s : State) (d : Fin 8) (n : Nat), ∃ t u, Gives (.hostSumpQuota d false n) s t ∧ Gives (.hostSumpQuota d true n) s u ∧
    (n ≤ 2 ^ 34 → (t.die d.val).sumpQuota = n ∧ t.hostOut = s.hostOut ++ [.status 0 0]) ∧
    (2 ^ 34 < n → t = { s with hostOut := s.hostOut ++ [.status 3 0] }) ∧
    (n ≤ 2 ^ 36 → (u.die d.val).stageQuota = n ∧ u.hostOut = s.hostOut ++ [.status 0 0]) ∧
    (2 ^ 36 < n → u = { s with hostOut := s.hostOut ++ [.status 3 0] })) ∧
  (∀ (s : State) (image sig nonce : List Byte),
    let refused (i : Instr) : Prop := Gives i s { s with hostOut := s.hostOut ++ [.status 2 0] }
    let boots (h : HostRegs) (st : Nat) : Prop :=
      Gives (.bootStage image sig) s { s with host := h, hostOut := s.hostOut ++ [.status st 0] }
    let good (x : List Byte × List Byte) : Prop := Config.imageSignatureOk x.1 x.2 = true
    (4 ≤ s.host.stage ∨ (s.host.stage = 1 ∨ s.host.stage = 2) ∧ image = [] → refused (.bootStage image sig)) ∧
    (s.host.stage = 1 ∨ s.host.stage = 2 → image ≠ [] →
      boots { s.host with stage := s.host.stage + 1, images := s.host.images ++ [some (image, sig)] } 0) ∧
    (∀ a b, s.host.stage = 3 → s.host.images = [some a, some b] →
      (good a → good b → boots { s.host with stage := 4, digests := [Config.digest a.1, Config.digest b.1] } 0) ∧
      (good a → ¬good b → boots { s.host with images := [some a, none] } 2) ∧
      (¬good a → good b → boots { s.host with images := [none, some b] } 2)) ∧
    (∀ a, s.host.stage = 3 → s.host.images = [some a, none] → good a →
      (good (image, sig) → boots { s.host with
        stage := 4, images := [some a, some (image, sig)], digests := [Config.digest a.1, Config.digest image] } 0) ∧
      (¬good (image, sig) → boots s.host 2)) ∧
    (s.host.stage ≠ 4 → refused .endOfBoot ∧ ∀ h, refused (.hostBootSetting h)) ∧
    (s.host.stage = 4 →
      (∃ t : State, Gives .endOfBoot s t ∧ t.host.booted = true ∧ t.host.stage = 5 ∧ ∀ p : Fin 18, t.links.getLsbD p.val = true) ∧
      (∀ p e, ∃ t : State, Gives (.hostBootSetting (.policy p e)) s t ∧ t.portSet p = { s.portSet p with encrypt := e }) ∧
      (∀ p key, key.length = 32 → ∃ t : State, Gives (.hostBootSetting (.key p key)) s t ∧ t.portSet p = { s.portSet p with key := key }) ∧
      (∀ p v, ∃ t : State, Gives (.hostBootSetting (.vlan p v)) s t ∧
        t.portSet p.castSucc = { s.portSet p.castSucc with vlan := v }) ∧
      (∀ d n, n ≤ 2 ^ 34 → ∃ t : State, Gives (.hostBootSetting (.messageSump d n)) s t ∧ (t.die d.val).sumpQuota = n) ∧
      (∀ d n, n ≤ 2 ^ 36 → ∃ t : State, Gives (.hostBootSetting (.stageSump d n)) s t ∧ (t.die d.val).stageQuota = n) ∧
      (∀ (pid : BitVec 16) ws, bootRecordOk ws = true → ∃ t : State, Gives (.hostBootSetting (.mapRecord pid ws)) s t ∧
        t.gmem.words (0xC01FE00000 + 32 * pid.toNat) 8 = ws ∧ bytesBut .global (0xC01FE00000 + 32 * pid.toNat) 32 s t)) ∧
    (nonce.length ≠ 32 → refused (.attestationRequest nonce)) ∧
    (nonce.length = 32 → ∃ t b sig, Gives (.attestationRequest nonce) s t ∧
      t.hostOut = s.hostOut ++ [.report (b ++ nonce ++ sig)] ∧ t = { s with hostOut := t.hostOut } ∧
      sig = Config.attestSignature (b ++ nonce) ∧ Config.identityCertificate s.chip.toNat <+: b ∧
      (∀ d ∈ s.host.digests, d <:+: b) ∧
      ((List.finRange 19).map fun p => if (s.portSet p).encrypt then (1 : Byte) else 0) <:+: b)) ∧
  (∀ s : State, ∃ t : State, Gives .chipReset s t ∧ t.host = State.reset.host ∧ t.links = 0 ∧ t.live = [] ∧ t.net = [] ∧
    t.conns = [] ∧ t.now = 0 ∧ (∀ cl, t.cluster cl = Cluster.reset) ∧ (∀ k, t.core k = Core.reset) ∧
    (∀ k c, t.act k c = none) ∧ (∀ i, (t.station i).entries = []) ∧ ∀ pid, (t.domain pid).c = -1)

/-- AN INVARIANT THAT EVERY STEP KEEPS: every memory has its canonical form (R71, R73: the model's own form, assumption 1):
no byte listed that is 0, no line listed that is empty and not poisoned, addresses strictly rising; from any such state,
whatever turn is taken. -/
def Obligations.MemoryFormKept : Prop :=
  ∀ s t : State, (∀ p, (s.mem p).wf) → step s = .next t → ∀ p, (t.mem p).wf
end

