-- ==== Sys2Proof/Laws/Tables.lean ====
section
/-! SUPPORT. Sys2Proof/Laws/Tables.lean: what the operations of a table do: a read after a write, and the canonical form
that every write keeps. -/

namespace Sys2Proof.Machine

variable {α : Type}

/-- A read of the key just written gives the value written. -/
@[simp] theorem Tab.get_set_same (t : Tab α) (k : Nat) (v : α) : (Tab.set t k v).get k = some v := by
  induction t with
  | nil => simp [Tab.set, Tab.get]
  | cons e r ih =>
    obtain ⟨j, w⟩ := e
    simp only [Tab.set]
    split
    · simp [Tab.get]
    · split
      · simp [Tab.get]
      · simp [Tab.get, *]

/-- A write leaves every other key alone. -/
theorem Tab.get_set_other (t : Tab α) (k j : Nat) (v : α) (h : j ≠ k) : (Tab.set t k v).get j = t.get j := by
  induction t with
  | nil => simp [Tab.set, Tab.get, Ne.symm h]
  | cons e r ih =>
    obtain ⟨i, w⟩ := e
    simp only [Tab.set]
    split
    · rename_i hi
      simp [Tab.get, hi, Ne.symm h]
    · split
      · simp [Tab.get, Ne.symm h]
      · simp [Tab.get, ih]

/-- A write, read back at any key. -/
theorem Tab.get_set (t : Tab α) (k j : Nat) (v : α) :
    (Tab.set t k v).get j = if j = k then some v else t.get j := by
  split
  · simp [*]
  · exact Tab.get_set_other t k j v ‹_›

/-- An erased key is not listed. -/
@[simp] theorem Tab.get_erase_same (t : Tab α) (k : Nat) : (Tab.erase t k).get k = none := by
  induction t with
  | nil => rfl
  | cons e r ih =>
    obtain ⟨j, w⟩ := e
    by_cases hj : j = k
    · simpa [Tab.erase, hj] using ih
    · simpa [Tab.erase, hj, Tab.get] using ih

/-- Erasing a key leaves every other key alone. -/
theorem Tab.get_erase_other (t : Tab α) (k j : Nat) (h : j ≠ k) : (Tab.erase t k).get j = t.get j := by
  induction t with
  | nil => rfl
  | cons e r ih =>
    obtain ⟨i, w⟩ := e
    by_cases hi : i = k
    · simpa [Tab.erase, hi, Tab.get, Ne.symm h] using ih
    · simp only [Tab.erase, ne_eq, decide_not] at ih
      simp [Tab.erase, hi, Tab.get, ih]

/-- What a table written by put reads as. -/
theorem Tab.look_put [DecidableEq α] (dflt : α) (t : Tab α) (k j : Nat) (v : α) :
    Tab.look dflt (Tab.put dflt t k v) j = if j = k then v else Tab.look dflt t j := by
  unfold Tab.put Tab.look
  by_cases hv : v = dflt
  · by_cases hj : j = k
    · simp [hv, hj]
    · simp [hv, hj, Tab.get_erase_other t k j hj]
  · by_cases hj : j = k <;> simp [hv, hj, Tab.get_set]

/-- What a table written by set reads as. -/
theorem Tab.look_set (dflt : α) (t : Tab α) (k j : Nat) (v : α) :
    Tab.look dflt (Tab.set t k v) j = if j = k then v else Tab.look dflt t j := by
  unfold Tab.look
  by_cases hj : j = k <;> simp [hj, Tab.get_set]

/-- The entries of a table after a write: the new one and old ones. -/
theorem Tab.mem_set (t : Tab α) (k : Nat) (v : α) (e : Nat × α) (h : e ∈ Tab.set t k v) : e = (k, v) ∨ e ∈ t := by
  induction t with
  | nil => simpa [Tab.set] using h
  | cons x r ih =>
    obtain ⟨j, w⟩ := x
    simp only [Tab.set] at h
    split at h
    · rcases List.mem_cons.mp h with rfl | h
      · exact .inl rfl
      · exact .inr (List.mem_cons_of_mem _ h)
    · split at h
      · rcases List.mem_cons.mp h with rfl | h
        · exact .inl rfl
        · exact .inr h
      · rcases List.mem_cons.mp h with rfl | h
        · exact .inr (List.mem_cons_self ..)
        · rcases ih h with h | h
          · exact .inl h
          · exact .inr (List.mem_cons_of_mem _ h)

/-- Keys strictly rising. -/
def Tab.Rising (t : Tab α) : Prop := t.Pairwise fun a b => a.1 < b.1

/-- A write keeps the keys rising. -/
theorem Tab.rising_set (t : Tab α) (k : Nat) (v : α) (h : Tab.Rising t) : Tab.Rising (Tab.set t k v) := by
  induction t with
  | nil => simp [Tab.set, Tab.Rising]
  | cons x r ih =>
    obtain ⟨j, w⟩ := x
    unfold Tab.Rising at h ⊢
    have ⟨h1, h2⟩ := List.pairwise_cons.mp h
    simp only [Tab.set]
    split
    · subst j
      exact List.pairwise_cons.mpr ⟨h1, h2⟩
    · split
      · refine List.pairwise_cons.mpr ⟨?_, h⟩
        intro e he
        rcases List.mem_cons.mp he with rfl | he
        · simpa
        · exact Nat.lt_trans ‹_› (h1 e he)
      · refine List.pairwise_cons.mpr ⟨?_, ih h2⟩
        intro e he
        rcases Tab.mem_set r k v e he with rfl | he
        · show j < k
          omega
        · exact h1 e he

/-- Erasing keeps the canonical form. -/
theorem Tab.canon_erase (dflt : α) (t : Tab α) (k : Nat) (h : Tab.Canon dflt t) : Tab.Canon dflt (Tab.erase t k) := by
  refine ⟨List.Pairwise.filter _ h.1, fun e he => h.2 e ?_⟩
  exact (List.mem_filter.mp he).1

/-- A write by put keeps the canonical form. -/
theorem Tab.canon_put [DecidableEq α] (dflt : α) (t : Tab α) (k : Nat) (v : α) (h : Tab.Canon dflt t) :
    Tab.Canon dflt (Tab.put dflt t k v) := by
  unfold Tab.put
  split
  · exact Tab.canon_erase dflt t k h
  · refine ⟨Tab.rising_set t k v h.1, fun e he => ?_⟩
    rcases Tab.mem_set t k v e he with rfl | he
    · assumption
    · exact h.2 e he

/-- The empty table is canonical. -/
theorem Tab.canon_nil (dflt : α) : Tab.Canon dflt ([] : Tab α) := ⟨List.Pairwise.nil, by simp⟩

end Sys2Proof.Machine
end

