-- ==== Sys2Proof/Laws/Memory.lean ====
section
/-! SUPPORT. Sys2Proof/Laws/Memory.lean: the laws of a memory: a read after a write, a write leaves the rest alone, and
every operation keeps the canonical form. -/

namespace Sys2Proof.Machine

namespace Mem

/-! ## Reads after writes -/

@[simp] theorem byte_setByte (m : Mem) (a x : Nat) (b : Byte) : (m.setByte a b).byte x = if x = a then b else m.byte x :=
  Tab.look_put 0 m.bytes a x b

@[simp] theorem line_setByte (m : Mem) (a l : Nat) (b : Byte) : (m.setByte a b).line l = m.line l := rfl
@[simp] theorem err_setByte (m : Mem) (a x : Nat) (b : Byte) : (m.setByte a b).err x = m.err x := rfl
@[simp] theorem byte_clearErr (m : Mem) (a x : Nat) : (m.clearErr a).byte x = m.byte x := rfl
@[simp] theorem line_clearErr (m : Mem) (a l : Nat) : (m.clearErr a).line l = m.line l := rfl
@[simp] theorem byte_setErr (m : Mem) (a x : Nat) (e : WordError) : (m.setErr a e).byte x = m.byte x := rfl
@[simp] theorem line_setErr (m : Mem) (a l : Nat) (e : WordError) : (m.setErr a e).line l = m.line l := rfl
@[simp] theorem byte_setLine (m : Mem) (l x : Nat) (v : Side) : (m.setLine l v).byte x = m.byte x := rfl
@[simp] theorem word_setLine (m : Mem) (l x : Nat) (v : Side) : (m.setLine l v).word x = m.word x := rfl
@[simp] theorem err_setLine (m : Mem) (l x : Nat) (v : Side) : (m.setLine l v).err x = m.err x := rfl
@[simp] theorem word_clearErr (m : Mem) (a x : Nat) : (m.clearErr a).word x = m.word x := rfl

@[simp] theorem line_setLine (m : Mem) (l k : Nat) (v : Side) :
    (m.setLine l v).line k = if k = l then v else m.line k :=
  Tab.look_put Side.zero m.side l k v

/-- The four bytes of a word store, and no other. -/
theorem byte_setWord (m : Mem) (a x : Nat) (v : Word) :
    (m.setWord a v).byte x =
      if a ≤ x ∧ x < a + 4 then v.extractLsb' (8 * (x - a)) 8 else m.byte x := by
  simp only [setWord, setWordBytes, byte_clearErr, byte_setByte]
  by_cases h0 : x = a
  · subst h0; simp
  · by_cases h1 : x = a + 1
    · subst h1; simp
    · by_cases h2 : x = a + 2
      · subst h2; simp
      · by_cases h3 : x = a + 3
        · subst h3; simp
        · have : ¬(a ≤ x ∧ x < a + 4) := by omega
          simp [h0, h1, h2, h3, this]

@[simp] theorem line_setWord (m : Mem) (a l : Nat) (v : Word) : (m.setWord a v).line l = m.line l := rfl

/-- A word store is read back. -/
@[simp] theorem word_setWord_same (m : Mem) (a : Nat) (v : Word) : (m.setWord a v).word a = v := by
  simp only [word, byte_setWord]
  have e : ∀ k, a + k - a = k := by omega
  simp only [Nat.le_add_right, Nat.le_refl, Nat.lt_add_right_iff_pos, e, Nat.sub_self, true_and,
    show a + 3 < a + 4 from by omega, show a + 2 < a + 4 from by omega, show a + 1 < a + 4 from by omega,
    show (0 : Nat) < 4 from by omega, if_true]
  apply BitVec.eq_of_getLsbD_eq
  intro i hi
  simp only [BitVec.getLsbD_append, BitVec.getLsbD_extractLsb']
  by_cases h0 : i < 8
  · simp [h0]
  · by_cases h1 : i < 16
    · simp [h0, show i - 8 < 8 from by omega, show 8 + (i - 8) = i from by omega]
    · by_cases h2 : i < 24
      · simp [h0, show ¬ i - 8 < 8 from by omega, show i - 8 - 8 < 8 from by omega,
          show 16 + (i - 8 - 8) = i from by omega]
      · simp [h0, show ¬ i - 8 < 8 from by omega, show ¬ i - 8 - 8 < 8 from by omega,
          show i - 8 - 8 - 8 < 8 from by omega, show 24 + (i - 8 - 8 - 8) = i from by omega]

/-- A word store leaves every other aligned word alone. -/
theorem word_setWord_other (m : Mem) (a b : Nat) (v : Word) (h : b + 4 ≤ a ∨ a + 4 ≤ b) :
    (m.setWord a v).word b = m.word b := by
  simp only [word, byte_setWord]
  have h0 : ¬(a ≤ b ∧ b < a + 4) := by omega
  have h1 : ¬(a ≤ b + 1 ∧ b + 1 < a + 4) := by omega
  have h2 : ¬(a ≤ b + 2 ∧ b + 2 < a + 4) := by omega
  have h3 : ¬(a ≤ b + 3 ∧ b + 3 < a + 4) := by omega
  simp only [h0, h1, h2, h3, if_false]

/-! ## The canonical form -/

theorem wf_zero : Mem.zero.wf := ⟨Tab.canon_nil _, Tab.canon_nil _, List.Pairwise.nil⟩

theorem wf_setByte (m : Mem) (a : Nat) (b : Byte) (h : m.wf) : (m.setByte a b).wf :=
  ⟨Tab.canon_put 0 m.bytes a b h.1, h.2⟩

theorem wf_setLine (m : Mem) (l : Nat) (v : Side) (h : m.wf) : (m.setLine l v).wf :=
  ⟨h.1, Tab.canon_put Side.zero m.side l v h.2.1, h.2.2⟩

theorem wf_clearErr (m : Mem) (a : Nat) (h : m.wf) : (m.clearErr a).wf :=
  ⟨h.1, h.2.1, List.Pairwise.filter _ h.2.2⟩

theorem wf_setErr (m : Mem) (a : Nat) (e : WordError) (h : m.wf) : (m.setErr a e).wf :=
  ⟨h.1, h.2.1, Tab.rising_set m.errs a e h.2.2⟩

theorem wf_setWordBytes (m : Mem) (a : Nat) (v : Word) (h : m.wf) : (m.setWordBytes a v).wf :=
  wf_setByte _ _ _ (wf_setByte _ _ _ (wf_setByte _ _ _ (wf_setByte _ _ _ h)))

theorem wf_setWord (m : Mem) (a : Nat) (v : Word) (h : m.wf) : (m.setWord a v).wf :=
  wf_clearErr _ _ (wf_setWordBytes m a v h)

theorem wf_setWords (m : Mem) (a : Nat) (vs : List Word) (h : m.wf) : (m.setWords a vs).wf := by
  induction vs generalizing m a with
  | nil => exact h
  | cons v r ih => exact ih _ _ (wf_setWord m a v h)

end Mem

end Sys2Proof.Machine
end

