-- ==== Sys2Proof/Laws/State.lean ====
section
/-! SUPPORT. Sys2Proof/Laws/State.lean: what each update of a unit does to each field of the state, and what the
accessors of the units read after it. -/

namespace Sys2Proof.Machine

namespace State

/-! ## updCtx -/

@[simp] theorem updCtx_cores (s : State) (core c : Nat) (f : Ctx → Ctx) : (s.updCtx core c f).cores = s.cores := rfl
@[simp] theorem updCtx_clusters (s : State) (core c : Nat) (f : Ctx → Ctx) : (s.updCtx core c f).clusters = s.clusters := rfl
@[simp] theorem updCtx_dies (s : State) (core c : Nat) (f : Ctx → Ctx) : (s.updCtx core c f).dies = s.dies := rfl
@[simp] theorem updCtx_stations (s : State) (core c : Nat) (f : Ctx → Ctx) : (s.updCtx core c f).stations = s.stations := rfl
@[simp] theorem updCtx_domains (s : State) (core c : Nat) (f : Ctx → Ctx) : (s.updCtx core c f).domains = s.domains := rfl
@[simp] theorem updCtx_chip (s : State) (core c : Nat) (f : Ctx → Ctx) : (s.updCtx core c f).chip = s.chip := rfl
@[simp] theorem updCtx_gmem (s : State) (core c : Nat) (f : Ctx → Ctx) : (s.updCtx core c f).gmem = s.gmem := rfl
@[simp] theorem updCtx_groups (s : State) (core c : Nat) (f : Ctx → Ctx) : (s.updCtx core c f).groups = s.groups := rfl
@[simp] theorem updCtx_mapws (s : State) (core c : Nat) (f : Ctx → Ctx) : (s.updCtx core c f).mapws = s.mapws := rfl
@[simp] theorem updCtx_dist (s : State) (core c : Nat) (f : Ctx → Ctx) : (s.updCtx core c f).dist = s.dist := rfl
@[simp] theorem updCtx_rseq (s : State) (core c : Nat) (f : Ctx → Ctx) : (s.updCtx core c f).rseq = s.rseq := rfl
@[simp] theorem updCtx_gwSeq (s : State) (core c : Nat) (f : Ctx → Ctx) : (s.updCtx core c f).gwSeq = s.gwSeq := rfl
@[simp] theorem updCtx_handle (s : State) (core c : Nat) (f : Ctx → Ctx) : (s.updCtx core c f).handle = s.handle := rfl
@[simp] theorem updCtx_hostRecs (s : State) (core c : Nat) (f : Ctx → Ctx) : (s.updCtx core c f).hostRecs = s.hostRecs := rfl
@[simp] theorem updCtx_links (s : State) (core c : Nat) (f : Ctx → Ctx) : (s.updCtx core c f).links = s.links := rfl
@[simp] theorem updCtx_host (s : State) (core c : Nat) (f : Ctx → Ctx) : (s.updCtx core c f).host = s.host := rfl
@[simp] theorem updCtx_portCfg (s : State) (core c : Nat) (f : Ctx → Ctx) : (s.updCtx core c f).portCfg = s.portCfg := rfl
@[simp] theorem updCtx_routes (s : State) (core c : Nat) (f : Ctx → Ctx) : (s.updCtx core c f).routes = s.routes := rfl
@[simp] theorem updCtx_later (s : State) (core c : Nat) (f : Ctx → Ctx) : (s.updCtx core c f).later = s.later := rfl
@[simp] theorem updCtx_conns (s : State) (core c : Nat) (f : Ctx → Ctx) : (s.updCtx core c f).conns = s.conns := rfl
@[simp] theorem updCtx_recvs (s : State) (core c : Nat) (f : Ctx → Ctx) : (s.updCtx core c f).recvs = s.recvs := rfl
@[simp] theorem updCtx_live (s : State) (core c : Nat) (f : Ctx → Ctx) : (s.updCtx core c f).live = s.live := rfl
@[simp] theorem updCtx_readId (s : State) (core c : Nat) (f : Ctx → Ctx) : (s.updCtx core c f).readId = s.readId := rfl
@[simp] theorem updCtx_net (s : State) (core c : Nat) (f : Ctx → Ctx) : (s.updCtx core c f).net = s.net := rfl
@[simp] theorem updCtx_stores (s : State) (core c : Nat) (f : Ctx → Ctx) : (s.updCtx core c f).stores = s.stores := rfl
@[simp] theorem updCtx_pending (s : State) (core c : Nat) (f : Ctx → Ctx) : (s.updCtx core c f).pending = s.pending := rfl
@[simp] theorem updCtx_replays (s : State) (core c : Nat) (f : Ctx → Ctx) : (s.updCtx core c f).replays = s.replays := rfl
@[simp] theorem updCtx_notices (s : State) (core c : Nat) (f : Ctx → Ctx) : (s.updCtx core c f).notices = s.notices := rfl
@[simp] theorem updCtx_reads (s : State) (core c : Nat) (f : Ctx → Ctx) : (s.updCtx core c f).reads = s.reads := rfl
@[simp] theorem updCtx_replies (s : State) (core c : Nat) (f : Ctx → Ctx) : (s.updCtx core c f).replies = s.replies := rfl
@[simp] theorem updCtx_portWords (s : State) (core c : Nat) (f : Ctx → Ctx) : (s.updCtx core c f).portWords = s.portWords := rfl
@[simp] theorem updCtx_portPlaces (s : State) (core c : Nat) (f : Ctx → Ctx) : (s.updCtx core c f).portPlaces = s.portPlaces := rfl
@[simp] theorem updCtx_deliveries (s : State) (core c : Nat) (f : Ctx → Ctx) : (s.updCtx core c f).deliveries = s.deliveries := rfl
@[simp] theorem updCtx_parts (s : State) (core c : Nat) (f : Ctx → Ctx) : (s.updCtx core c f).parts = s.parts := rfl
@[simp] theorem updCtx_adds (s : State) (core c : Nat) (f : Ctx → Ctx) : (s.updCtx core c f).adds = s.adds := rfl
@[simp] theorem updCtx_frames (s : State) (core c : Nat) (f : Ctx → Ctx) : (s.updCtx core c f).frames = s.frames := rfl
@[simp] theorem updCtx_heldNotices (s : State) (core c : Nat) (f : Ctx → Ctx) : (s.updCtx core c f).heldNotices = s.heldNotices := rfl
@[simp] theorem updCtx_now (s : State) (core c : Nat) (f : Ctx → Ctx) : (s.updCtx core c f).now = s.now := rfl
@[simp] theorem updCtx_turns (s : State) (core c : Nat) (f : Ctx → Ctx) : (s.updCtx core c f).turns = s.turns := rfl
@[simp] theorem updCtx_cur (s : State) (core c : Nat) (f : Ctx → Ctx) : (s.updCtx core c f).cur = s.cur := rfl
@[simp] theorem updCtx_focus (s : State) (core c : Nat) (f : Ctx → Ctx) : (s.updCtx core c f).focus = s.focus := rfl
@[simp] theorem updCtx_free (s : State) (core c : Nat) (f : Ctx → Ctx) : (s.updCtx core c f).free = s.free := rfl
@[simp] theorem updCtx_hostOut (s : State) (core c : Nat) (f : Ctx → Ctx) : (s.updCtx core c f).hostOut = s.hostOut := rfl
@[simp] theorem updCtx_wireOut (s : State) (core c : Nat) (f : Ctx → Ctx) : (s.updCtx core c f).wireOut = s.wireOut := rfl
@[simp] theorem updCtx_at_core (s : State) (core c : Nat) (f : Ctx → Ctx) (k : Nat) : (s.updCtx core c f).core k = s.core k := rfl
@[simp] theorem updCtx_at_cluster (s : State) (core c : Nat) (f : Ctx → Ctx) (k : Nat) : (s.updCtx core c f).cluster k = s.cluster k := rfl
@[simp] theorem updCtx_at_die (s : State) (core c : Nat) (f : Ctx → Ctx) (k : Nat) : (s.updCtx core c f).die k = s.die k := rfl
@[simp] theorem updCtx_at_station (s : State) (core c : Nat) (f : Ctx → Ctx) (k : Nat) : (s.updCtx core c f).station k = s.station k := rfl
@[simp] theorem updCtx_at_domain (s : State) (core c : Nat) (f : Ctx → Ctx) (p : BitVec 16) : (s.updCtx core c f).domain p = s.domain p := rfl

/-! ## updAct -/

@[simp] theorem updAct_cores (s : State) (core c : Nat) (f : Act → Act) : (s.updAct core c f).cores = s.cores := rfl
@[simp] theorem updAct_clusters (s : State) (core c : Nat) (f : Act → Act) : (s.updAct core c f).clusters = s.clusters := rfl
@[simp] theorem updAct_dies (s : State) (core c : Nat) (f : Act → Act) : (s.updAct core c f).dies = s.dies := rfl
@[simp] theorem updAct_stations (s : State) (core c : Nat) (f : Act → Act) : (s.updAct core c f).stations = s.stations := rfl
@[simp] theorem updAct_domains (s : State) (core c : Nat) (f : Act → Act) : (s.updAct core c f).domains = s.domains := rfl
@[simp] theorem updAct_chip (s : State) (core c : Nat) (f : Act → Act) : (s.updAct core c f).chip = s.chip := rfl
@[simp] theorem updAct_gmem (s : State) (core c : Nat) (f : Act → Act) : (s.updAct core c f).gmem = s.gmem := rfl
@[simp] theorem updAct_groups (s : State) (core c : Nat) (f : Act → Act) : (s.updAct core c f).groups = s.groups := rfl
@[simp] theorem updAct_mapws (s : State) (core c : Nat) (f : Act → Act) : (s.updAct core c f).mapws = s.mapws := rfl
@[simp] theorem updAct_dist (s : State) (core c : Nat) (f : Act → Act) : (s.updAct core c f).dist = s.dist := rfl
@[simp] theorem updAct_rseq (s : State) (core c : Nat) (f : Act → Act) : (s.updAct core c f).rseq = s.rseq := rfl
@[simp] theorem updAct_gwSeq (s : State) (core c : Nat) (f : Act → Act) : (s.updAct core c f).gwSeq = s.gwSeq := rfl
@[simp] theorem updAct_handle (s : State) (core c : Nat) (f : Act → Act) : (s.updAct core c f).handle = s.handle := rfl
@[simp] theorem updAct_hostRecs (s : State) (core c : Nat) (f : Act → Act) : (s.updAct core c f).hostRecs = s.hostRecs := rfl
@[simp] theorem updAct_links (s : State) (core c : Nat) (f : Act → Act) : (s.updAct core c f).links = s.links := rfl
@[simp] theorem updAct_host (s : State) (core c : Nat) (f : Act → Act) : (s.updAct core c f).host = s.host := rfl
@[simp] theorem updAct_portCfg (s : State) (core c : Nat) (f : Act → Act) : (s.updAct core c f).portCfg = s.portCfg := rfl
@[simp] theorem updAct_routes (s : State) (core c : Nat) (f : Act → Act) : (s.updAct core c f).routes = s.routes := rfl
@[simp] theorem updAct_later (s : State) (core c : Nat) (f : Act → Act) : (s.updAct core c f).later = s.later := rfl
@[simp] theorem updAct_conns (s : State) (core c : Nat) (f : Act → Act) : (s.updAct core c f).conns = s.conns := rfl
@[simp] theorem updAct_recvs (s : State) (core c : Nat) (f : Act → Act) : (s.updAct core c f).recvs = s.recvs := rfl
@[simp] theorem updAct_live (s : State) (core c : Nat) (f : Act → Act) : (s.updAct core c f).live = s.live := rfl
@[simp] theorem updAct_readId (s : State) (core c : Nat) (f : Act → Act) : (s.updAct core c f).readId = s.readId := rfl
@[simp] theorem updAct_net (s : State) (core c : Nat) (f : Act → Act) : (s.updAct core c f).net = s.net := rfl
@[simp] theorem updAct_stores (s : State) (core c : Nat) (f : Act → Act) : (s.updAct core c f).stores = s.stores := rfl
@[simp] theorem updAct_pending (s : State) (core c : Nat) (f : Act → Act) : (s.updAct core c f).pending = s.pending := rfl
@[simp] theorem updAct_replays (s : State) (core c : Nat) (f : Act → Act) : (s.updAct core c f).replays = s.replays := rfl
@[simp] theorem updAct_notices (s : State) (core c : Nat) (f : Act → Act) : (s.updAct core c f).notices = s.notices := rfl
@[simp] theorem updAct_reads (s : State) (core c : Nat) (f : Act → Act) : (s.updAct core c f).reads = s.reads := rfl
@[simp] theorem updAct_replies (s : State) (core c : Nat) (f : Act → Act) : (s.updAct core c f).replies = s.replies := rfl
@[simp] theorem updAct_portWords (s : State) (core c : Nat) (f : Act → Act) : (s.updAct core c f).portWords = s.portWords := rfl
@[simp] theorem updAct_portPlaces (s : State) (core c : Nat) (f : Act → Act) : (s.updAct core c f).portPlaces = s.portPlaces := rfl
@[simp] theorem updAct_deliveries (s : State) (core c : Nat) (f : Act → Act) : (s.updAct core c f).deliveries = s.deliveries := rfl
@[simp] theorem updAct_parts (s : State) (core c : Nat) (f : Act → Act) : (s.updAct core c f).parts = s.parts := rfl
@[simp] theorem updAct_adds (s : State) (core c : Nat) (f : Act → Act) : (s.updAct core c f).adds = s.adds := rfl
@[simp] theorem updAct_frames (s : State) (core c : Nat) (f : Act → Act) : (s.updAct core c f).frames = s.frames := rfl
@[simp] theorem updAct_heldNotices (s : State) (core c : Nat) (f : Act → Act) : (s.updAct core c f).heldNotices = s.heldNotices := rfl
@[simp] theorem updAct_now (s : State) (core c : Nat) (f : Act → Act) : (s.updAct core c f).now = s.now := rfl
@[simp] theorem updAct_turns (s : State) (core c : Nat) (f : Act → Act) : (s.updAct core c f).turns = s.turns := rfl
@[simp] theorem updAct_cur (s : State) (core c : Nat) (f : Act → Act) : (s.updAct core c f).cur = s.cur := rfl
@[simp] theorem updAct_focus (s : State) (core c : Nat) (f : Act → Act) : (s.updAct core c f).focus = s.focus := rfl
@[simp] theorem updAct_free (s : State) (core c : Nat) (f : Act → Act) : (s.updAct core c f).free = s.free := rfl
@[simp] theorem updAct_hostOut (s : State) (core c : Nat) (f : Act → Act) : (s.updAct core c f).hostOut = s.hostOut := rfl
@[simp] theorem updAct_wireOut (s : State) (core c : Nat) (f : Act → Act) : (s.updAct core c f).wireOut = s.wireOut := rfl
@[simp] theorem updAct_at_core (s : State) (core c : Nat) (f : Act → Act) (k : Nat) : (s.updAct core c f).core k = s.core k := rfl
@[simp] theorem updAct_at_cluster (s : State) (core c : Nat) (f : Act → Act) (k : Nat) : (s.updAct core c f).cluster k = s.cluster k := rfl
@[simp] theorem updAct_at_die (s : State) (core c : Nat) (f : Act → Act) (k : Nat) : (s.updAct core c f).die k = s.die k := rfl
@[simp] theorem updAct_at_station (s : State) (core c : Nat) (f : Act → Act) (k : Nat) : (s.updAct core c f).station k = s.station k := rfl
@[simp] theorem updAct_at_domain (s : State) (core c : Nat) (f : Act → Act) (p : BitVec 16) : (s.updAct core c f).domain p = s.domain p := rfl

/-! ## updCore -/

@[simp] theorem updCore_ctxs (s : State) (core : Nat) (f : Core → Core) : (s.updCore core f).ctxs = s.ctxs := rfl
@[simp] theorem updCore_clusters (s : State) (core : Nat) (f : Core → Core) : (s.updCore core f).clusters = s.clusters := rfl
@[simp] theorem updCore_dies (s : State) (core : Nat) (f : Core → Core) : (s.updCore core f).dies = s.dies := rfl
@[simp] theorem updCore_stations (s : State) (core : Nat) (f : Core → Core) : (s.updCore core f).stations = s.stations := rfl
@[simp] theorem updCore_domains (s : State) (core : Nat) (f : Core → Core) : (s.updCore core f).domains = s.domains := rfl
@[simp] theorem updCore_chip (s : State) (core : Nat) (f : Core → Core) : (s.updCore core f).chip = s.chip := rfl
@[simp] theorem updCore_gmem (s : State) (core : Nat) (f : Core → Core) : (s.updCore core f).gmem = s.gmem := rfl
@[simp] theorem updCore_groups (s : State) (core : Nat) (f : Core → Core) : (s.updCore core f).groups = s.groups := rfl
@[simp] theorem updCore_mapws (s : State) (core : Nat) (f : Core → Core) : (s.updCore core f).mapws = s.mapws := rfl
@[simp] theorem updCore_dist (s : State) (core : Nat) (f : Core → Core) : (s.updCore core f).dist = s.dist := rfl
@[simp] theorem updCore_rseq (s : State) (core : Nat) (f : Core → Core) : (s.updCore core f).rseq = s.rseq := rfl
@[simp] theorem updCore_gwSeq (s : State) (core : Nat) (f : Core → Core) : (s.updCore core f).gwSeq = s.gwSeq := rfl
@[simp] theorem updCore_handle (s : State) (core : Nat) (f : Core → Core) : (s.updCore core f).handle = s.handle := rfl
@[simp] theorem updCore_hostRecs (s : State) (core : Nat) (f : Core → Core) : (s.updCore core f).hostRecs = s.hostRecs := rfl
@[simp] theorem updCore_links (s : State) (core : Nat) (f : Core → Core) : (s.updCore core f).links = s.links := rfl
@[simp] theorem updCore_host (s : State) (core : Nat) (f : Core → Core) : (s.updCore core f).host = s.host := rfl
@[simp] theorem updCore_portCfg (s : State) (core : Nat) (f : Core → Core) : (s.updCore core f).portCfg = s.portCfg := rfl
@[simp] theorem updCore_routes (s : State) (core : Nat) (f : Core → Core) : (s.updCore core f).routes = s.routes := rfl
@[simp] theorem updCore_later (s : State) (core : Nat) (f : Core → Core) : (s.updCore core f).later = s.later := rfl
@[simp] theorem updCore_conns (s : State) (core : Nat) (f : Core → Core) : (s.updCore core f).conns = s.conns := rfl
@[simp] theorem updCore_recvs (s : State) (core : Nat) (f : Core → Core) : (s.updCore core f).recvs = s.recvs := rfl
@[simp] theorem updCore_live (s : State) (core : Nat) (f : Core → Core) : (s.updCore core f).live = s.live := rfl
@[simp] theorem updCore_readId (s : State) (core : Nat) (f : Core → Core) : (s.updCore core f).readId = s.readId := rfl
@[simp] theorem updCore_net (s : State) (core : Nat) (f : Core → Core) : (s.updCore core f).net = s.net := rfl
@[simp] theorem updCore_stores (s : State) (core : Nat) (f : Core → Core) : (s.updCore core f).stores = s.stores := rfl
@[simp] theorem updCore_pending (s : State) (core : Nat) (f : Core → Core) : (s.updCore core f).pending = s.pending := rfl
@[simp] theorem updCore_replays (s : State) (core : Nat) (f : Core → Core) : (s.updCore core f).replays = s.replays := rfl
@[simp] theorem updCore_notices (s : State) (core : Nat) (f : Core → Core) : (s.updCore core f).notices = s.notices := rfl
@[simp] theorem updCore_reads (s : State) (core : Nat) (f : Core → Core) : (s.updCore core f).reads = s.reads := rfl
@[simp] theorem updCore_replies (s : State) (core : Nat) (f : Core → Core) : (s.updCore core f).replies = s.replies := rfl
@[simp] theorem updCore_portWords (s : State) (core : Nat) (f : Core → Core) : (s.updCore core f).portWords = s.portWords := rfl
@[simp] theorem updCore_portPlaces (s : State) (core : Nat) (f : Core → Core) : (s.updCore core f).portPlaces = s.portPlaces := rfl
@[simp] theorem updCore_deliveries (s : State) (core : Nat) (f : Core → Core) : (s.updCore core f).deliveries = s.deliveries := rfl
@[simp] theorem updCore_parts (s : State) (core : Nat) (f : Core → Core) : (s.updCore core f).parts = s.parts := rfl
@[simp] theorem updCore_adds (s : State) (core : Nat) (f : Core → Core) : (s.updCore core f).adds = s.adds := rfl
@[simp] theorem updCore_frames (s : State) (core : Nat) (f : Core → Core) : (s.updCore core f).frames = s.frames := rfl
@[simp] theorem updCore_heldNotices (s : State) (core : Nat) (f : Core → Core) : (s.updCore core f).heldNotices = s.heldNotices := rfl
@[simp] theorem updCore_now (s : State) (core : Nat) (f : Core → Core) : (s.updCore core f).now = s.now := rfl
@[simp] theorem updCore_turns (s : State) (core : Nat) (f : Core → Core) : (s.updCore core f).turns = s.turns := rfl
@[simp] theorem updCore_cur (s : State) (core : Nat) (f : Core → Core) : (s.updCore core f).cur = s.cur := rfl
@[simp] theorem updCore_focus (s : State) (core : Nat) (f : Core → Core) : (s.updCore core f).focus = s.focus := rfl
@[simp] theorem updCore_free (s : State) (core : Nat) (f : Core → Core) : (s.updCore core f).free = s.free := rfl
@[simp] theorem updCore_hostOut (s : State) (core : Nat) (f : Core → Core) : (s.updCore core f).hostOut = s.hostOut := rfl
@[simp] theorem updCore_wireOut (s : State) (core : Nat) (f : Core → Core) : (s.updCore core f).wireOut = s.wireOut := rfl
@[simp] theorem updCore_at_ctx (s : State) (core : Nat) (f : Core → Core) (core' c' : Nat) : (s.updCore core f).ctx core' c' = s.ctx core' c' := rfl
@[simp] theorem updCore_at_act (s : State) (core : Nat) (f : Core → Core) (core' c' : Nat) : (s.updCore core f).act core' c' = s.act core' c' := rfl
@[simp] theorem updCore_at_cluster (s : State) (core : Nat) (f : Core → Core) (k : Nat) : (s.updCore core f).cluster k = s.cluster k := rfl
@[simp] theorem updCore_at_die (s : State) (core : Nat) (f : Core → Core) (k : Nat) : (s.updCore core f).die k = s.die k := rfl
@[simp] theorem updCore_at_station (s : State) (core : Nat) (f : Core → Core) (k : Nat) : (s.updCore core f).station k = s.station k := rfl
@[simp] theorem updCore_at_domain (s : State) (core : Nat) (f : Core → Core) (p : BitVec 16) : (s.updCore core f).domain p = s.domain p := rfl

/-! ## updCluster -/

@[simp] theorem updCluster_ctxs (s : State) (cl : Nat) (f : Cluster → Cluster) : (s.updCluster cl f).ctxs = s.ctxs := rfl
@[simp] theorem updCluster_cores (s : State) (cl : Nat) (f : Cluster → Cluster) : (s.updCluster cl f).cores = s.cores := rfl
@[simp] theorem updCluster_dies (s : State) (cl : Nat) (f : Cluster → Cluster) : (s.updCluster cl f).dies = s.dies := rfl
@[simp] theorem updCluster_stations (s : State) (cl : Nat) (f : Cluster → Cluster) : (s.updCluster cl f).stations = s.stations := rfl
@[simp] theorem updCluster_domains (s : State) (cl : Nat) (f : Cluster → Cluster) : (s.updCluster cl f).domains = s.domains := rfl
@[simp] theorem updCluster_chip (s : State) (cl : Nat) (f : Cluster → Cluster) : (s.updCluster cl f).chip = s.chip := rfl
@[simp] theorem updCluster_gmem (s : State) (cl : Nat) (f : Cluster → Cluster) : (s.updCluster cl f).gmem = s.gmem := rfl
@[simp] theorem updCluster_groups (s : State) (cl : Nat) (f : Cluster → Cluster) : (s.updCluster cl f).groups = s.groups := rfl
@[simp] theorem updCluster_mapws (s : State) (cl : Nat) (f : Cluster → Cluster) : (s.updCluster cl f).mapws = s.mapws := rfl
@[simp] theorem updCluster_dist (s : State) (cl : Nat) (f : Cluster → Cluster) : (s.updCluster cl f).dist = s.dist := rfl
@[simp] theorem updCluster_rseq (s : State) (cl : Nat) (f : Cluster → Cluster) : (s.updCluster cl f).rseq = s.rseq := rfl
@[simp] theorem updCluster_gwSeq (s : State) (cl : Nat) (f : Cluster → Cluster) : (s.updCluster cl f).gwSeq = s.gwSeq := rfl
@[simp] theorem updCluster_handle (s : State) (cl : Nat) (f : Cluster → Cluster) : (s.updCluster cl f).handle = s.handle := rfl
@[simp] theorem updCluster_hostRecs (s : State) (cl : Nat) (f : Cluster → Cluster) : (s.updCluster cl f).hostRecs = s.hostRecs := rfl
@[simp] theorem updCluster_links (s : State) (cl : Nat) (f : Cluster → Cluster) : (s.updCluster cl f).links = s.links := rfl
@[simp] theorem updCluster_host (s : State) (cl : Nat) (f : Cluster → Cluster) : (s.updCluster cl f).host = s.host := rfl
@[simp] theorem updCluster_portCfg (s : State) (cl : Nat) (f : Cluster → Cluster) : (s.updCluster cl f).portCfg = s.portCfg := rfl
@[simp] theorem updCluster_routes (s : State) (cl : Nat) (f : Cluster → Cluster) : (s.updCluster cl f).routes = s.routes := rfl
@[simp] theorem updCluster_later (s : State) (cl : Nat) (f : Cluster → Cluster) : (s.updCluster cl f).later = s.later := rfl
@[simp] theorem updCluster_conns (s : State) (cl : Nat) (f : Cluster → Cluster) : (s.updCluster cl f).conns = s.conns := rfl
@[simp] theorem updCluster_recvs (s : State) (cl : Nat) (f : Cluster → Cluster) : (s.updCluster cl f).recvs = s.recvs := rfl
@[simp] theorem updCluster_live (s : State) (cl : Nat) (f : Cluster → Cluster) : (s.updCluster cl f).live = s.live := rfl
@[simp] theorem updCluster_readId (s : State) (cl : Nat) (f : Cluster → Cluster) : (s.updCluster cl f).readId = s.readId := rfl
@[simp] theorem updCluster_net (s : State) (cl : Nat) (f : Cluster → Cluster) : (s.updCluster cl f).net = s.net := rfl
@[simp] theorem updCluster_stores (s : State) (cl : Nat) (f : Cluster → Cluster) : (s.updCluster cl f).stores = s.stores := rfl
@[simp] theorem updCluster_pending (s : State) (cl : Nat) (f : Cluster → Cluster) : (s.updCluster cl f).pending = s.pending := rfl
@[simp] theorem updCluster_replays (s : State) (cl : Nat) (f : Cluster → Cluster) : (s.updCluster cl f).replays = s.replays := rfl
@[simp] theorem updCluster_notices (s : State) (cl : Nat) (f : Cluster → Cluster) : (s.updCluster cl f).notices = s.notices := rfl
@[simp] theorem updCluster_reads (s : State) (cl : Nat) (f : Cluster → Cluster) : (s.updCluster cl f).reads = s.reads := rfl
@[simp] theorem updCluster_replies (s : State) (cl : Nat) (f : Cluster → Cluster) : (s.updCluster cl f).replies = s.replies := rfl
@[simp] theorem updCluster_portWords (s : State) (cl : Nat) (f : Cluster → Cluster) : (s.updCluster cl f).portWords = s.portWords := rfl
@[simp] theorem updCluster_portPlaces (s : State) (cl : Nat) (f : Cluster → Cluster) : (s.updCluster cl f).portPlaces = s.portPlaces := rfl
@[simp] theorem updCluster_deliveries (s : State) (cl : Nat) (f : Cluster → Cluster) : (s.updCluster cl f).deliveries = s.deliveries := rfl
@[simp] theorem updCluster_parts (s : State) (cl : Nat) (f : Cluster → Cluster) : (s.updCluster cl f).parts = s.parts := rfl
@[simp] theorem updCluster_adds (s : State) (cl : Nat) (f : Cluster → Cluster) : (s.updCluster cl f).adds = s.adds := rfl
@[simp] theorem updCluster_frames (s : State) (cl : Nat) (f : Cluster → Cluster) : (s.updCluster cl f).frames = s.frames := rfl
@[simp] theorem updCluster_heldNotices (s : State) (cl : Nat) (f : Cluster → Cluster) : (s.updCluster cl f).heldNotices = s.heldNotices := rfl
@[simp] theorem updCluster_now (s : State) (cl : Nat) (f : Cluster → Cluster) : (s.updCluster cl f).now = s.now := rfl
@[simp] theorem updCluster_turns (s : State) (cl : Nat) (f : Cluster → Cluster) : (s.updCluster cl f).turns = s.turns := rfl
@[simp] theorem updCluster_cur (s : State) (cl : Nat) (f : Cluster → Cluster) : (s.updCluster cl f).cur = s.cur := rfl
@[simp] theorem updCluster_focus (s : State) (cl : Nat) (f : Cluster → Cluster) : (s.updCluster cl f).focus = s.focus := rfl
@[simp] theorem updCluster_free (s : State) (cl : Nat) (f : Cluster → Cluster) : (s.updCluster cl f).free = s.free := rfl
@[simp] theorem updCluster_hostOut (s : State) (cl : Nat) (f : Cluster → Cluster) : (s.updCluster cl f).hostOut = s.hostOut := rfl
@[simp] theorem updCluster_wireOut (s : State) (cl : Nat) (f : Cluster → Cluster) : (s.updCluster cl f).wireOut = s.wireOut := rfl
@[simp] theorem updCluster_at_ctx (s : State) (cl : Nat) (f : Cluster → Cluster) (core' c' : Nat) : (s.updCluster cl f).ctx core' c' = s.ctx core' c' := rfl
@[simp] theorem updCluster_at_act (s : State) (cl : Nat) (f : Cluster → Cluster) (core' c' : Nat) : (s.updCluster cl f).act core' c' = s.act core' c' := rfl
@[simp] theorem updCluster_at_core (s : State) (cl : Nat) (f : Cluster → Cluster) (k : Nat) : (s.updCluster cl f).core k = s.core k := rfl
@[simp] theorem updCluster_at_die (s : State) (cl : Nat) (f : Cluster → Cluster) (k : Nat) : (s.updCluster cl f).die k = s.die k := rfl
@[simp] theorem updCluster_at_station (s : State) (cl : Nat) (f : Cluster → Cluster) (k : Nat) : (s.updCluster cl f).station k = s.station k := rfl
@[simp] theorem updCluster_at_domain (s : State) (cl : Nat) (f : Cluster → Cluster) (p : BitVec 16) : (s.updCluster cl f).domain p = s.domain p := rfl

/-! ## updDie -/

@[simp] theorem updDie_ctxs (s : State) (d : Nat) (f : Die → Die) : (s.updDie d f).ctxs = s.ctxs := rfl
@[simp] theorem updDie_cores (s : State) (d : Nat) (f : Die → Die) : (s.updDie d f).cores = s.cores := rfl
@[simp] theorem updDie_clusters (s : State) (d : Nat) (f : Die → Die) : (s.updDie d f).clusters = s.clusters := rfl
@[simp] theorem updDie_stations (s : State) (d : Nat) (f : Die → Die) : (s.updDie d f).stations = s.stations := rfl
@[simp] theorem updDie_domains (s : State) (d : Nat) (f : Die → Die) : (s.updDie d f).domains = s.domains := rfl
@[simp] theorem updDie_chip (s : State) (d : Nat) (f : Die → Die) : (s.updDie d f).chip = s.chip := rfl
@[simp] theorem updDie_gmem (s : State) (d : Nat) (f : Die → Die) : (s.updDie d f).gmem = s.gmem := rfl
@[simp] theorem updDie_groups (s : State) (d : Nat) (f : Die → Die) : (s.updDie d f).groups = s.groups := rfl
@[simp] theorem updDie_mapws (s : State) (d : Nat) (f : Die → Die) : (s.updDie d f).mapws = s.mapws := rfl
@[simp] theorem updDie_dist (s : State) (d : Nat) (f : Die → Die) : (s.updDie d f).dist = s.dist := rfl
@[simp] theorem updDie_rseq (s : State) (d : Nat) (f : Die → Die) : (s.updDie d f).rseq = s.rseq := rfl
@[simp] theorem updDie_gwSeq (s : State) (d : Nat) (f : Die → Die) : (s.updDie d f).gwSeq = s.gwSeq := rfl
@[simp] theorem updDie_handle (s : State) (d : Nat) (f : Die → Die) : (s.updDie d f).handle = s.handle := rfl
@[simp] theorem updDie_hostRecs (s : State) (d : Nat) (f : Die → Die) : (s.updDie d f).hostRecs = s.hostRecs := rfl
@[simp] theorem updDie_links (s : State) (d : Nat) (f : Die → Die) : (s.updDie d f).links = s.links := rfl
@[simp] theorem updDie_host (s : State) (d : Nat) (f : Die → Die) : (s.updDie d f).host = s.host := rfl
@[simp] theorem updDie_portCfg (s : State) (d : Nat) (f : Die → Die) : (s.updDie d f).portCfg = s.portCfg := rfl
@[simp] theorem updDie_routes (s : State) (d : Nat) (f : Die → Die) : (s.updDie d f).routes = s.routes := rfl
@[simp] theorem updDie_later (s : State) (d : Nat) (f : Die → Die) : (s.updDie d f).later = s.later := rfl
@[simp] theorem updDie_conns (s : State) (d : Nat) (f : Die → Die) : (s.updDie d f).conns = s.conns := rfl
@[simp] theorem updDie_recvs (s : State) (d : Nat) (f : Die → Die) : (s.updDie d f).recvs = s.recvs := rfl
@[simp] theorem updDie_live (s : State) (d : Nat) (f : Die → Die) : (s.updDie d f).live = s.live := rfl
@[simp] theorem updDie_readId (s : State) (d : Nat) (f : Die → Die) : (s.updDie d f).readId = s.readId := rfl
@[simp] theorem updDie_net (s : State) (d : Nat) (f : Die → Die) : (s.updDie d f).net = s.net := rfl
@[simp] theorem updDie_stores (s : State) (d : Nat) (f : Die → Die) : (s.updDie d f).stores = s.stores := rfl
@[simp] theorem updDie_pending (s : State) (d : Nat) (f : Die → Die) : (s.updDie d f).pending = s.pending := rfl
@[simp] theorem updDie_replays (s : State) (d : Nat) (f : Die → Die) : (s.updDie d f).replays = s.replays := rfl
@[simp] theorem updDie_notices (s : State) (d : Nat) (f : Die → Die) : (s.updDie d f).notices = s.notices := rfl
@[simp] theorem updDie_reads (s : State) (d : Nat) (f : Die → Die) : (s.updDie d f).reads = s.reads := rfl
@[simp] theorem updDie_replies (s : State) (d : Nat) (f : Die → Die) : (s.updDie d f).replies = s.replies := rfl
@[simp] theorem updDie_portWords (s : State) (d : Nat) (f : Die → Die) : (s.updDie d f).portWords = s.portWords := rfl
@[simp] theorem updDie_portPlaces (s : State) (d : Nat) (f : Die → Die) : (s.updDie d f).portPlaces = s.portPlaces := rfl
@[simp] theorem updDie_deliveries (s : State) (d : Nat) (f : Die → Die) : (s.updDie d f).deliveries = s.deliveries := rfl
@[simp] theorem updDie_parts (s : State) (d : Nat) (f : Die → Die) : (s.updDie d f).parts = s.parts := rfl
@[simp] theorem updDie_adds (s : State) (d : Nat) (f : Die → Die) : (s.updDie d f).adds = s.adds := rfl
@[simp] theorem updDie_frames (s : State) (d : Nat) (f : Die → Die) : (s.updDie d f).frames = s.frames := rfl
@[simp] theorem updDie_heldNotices (s : State) (d : Nat) (f : Die → Die) : (s.updDie d f).heldNotices = s.heldNotices := rfl
@[simp] theorem updDie_now (s : State) (d : Nat) (f : Die → Die) : (s.updDie d f).now = s.now := rfl
@[simp] theorem updDie_turns (s : State) (d : Nat) (f : Die → Die) : (s.updDie d f).turns = s.turns := rfl
@[simp] theorem updDie_cur (s : State) (d : Nat) (f : Die → Die) : (s.updDie d f).cur = s.cur := rfl
@[simp] theorem updDie_focus (s : State) (d : Nat) (f : Die → Die) : (s.updDie d f).focus = s.focus := rfl
@[simp] theorem updDie_free (s : State) (d : Nat) (f : Die → Die) : (s.updDie d f).free = s.free := rfl
@[simp] theorem updDie_hostOut (s : State) (d : Nat) (f : Die → Die) : (s.updDie d f).hostOut = s.hostOut := rfl
@[simp] theorem updDie_wireOut (s : State) (d : Nat) (f : Die → Die) : (s.updDie d f).wireOut = s.wireOut := rfl
@[simp] theorem updDie_at_ctx (s : State) (d : Nat) (f : Die → Die) (core' c' : Nat) : (s.updDie d f).ctx core' c' = s.ctx core' c' := rfl
@[simp] theorem updDie_at_act (s : State) (d : Nat) (f : Die → Die) (core' c' : Nat) : (s.updDie d f).act core' c' = s.act core' c' := rfl
@[simp] theorem updDie_at_core (s : State) (d : Nat) (f : Die → Die) (k : Nat) : (s.updDie d f).core k = s.core k := rfl
@[simp] theorem updDie_at_cluster (s : State) (d : Nat) (f : Die → Die) (k : Nat) : (s.updDie d f).cluster k = s.cluster k := rfl
@[simp] theorem updDie_at_station (s : State) (d : Nat) (f : Die → Die) (k : Nat) : (s.updDie d f).station k = s.station k := rfl
@[simp] theorem updDie_at_domain (s : State) (d : Nat) (f : Die → Die) (p : BitVec 16) : (s.updDie d f).domain p = s.domain p := rfl

/-! ## updStation -/

@[simp] theorem updStation_ctxs (s : State) (i : Nat) (f : Station → Station) : (s.updStation i f).ctxs = s.ctxs := rfl
@[simp] theorem updStation_cores (s : State) (i : Nat) (f : Station → Station) : (s.updStation i f).cores = s.cores := rfl
@[simp] theorem updStation_clusters (s : State) (i : Nat) (f : Station → Station) : (s.updStation i f).clusters = s.clusters := rfl
@[simp] theorem updStation_dies (s : State) (i : Nat) (f : Station → Station) : (s.updStation i f).dies = s.dies := rfl
@[simp] theorem updStation_domains (s : State) (i : Nat) (f : Station → Station) : (s.updStation i f).domains = s.domains := rfl
@[simp] theorem updStation_chip (s : State) (i : Nat) (f : Station → Station) : (s.updStation i f).chip = s.chip := rfl
@[simp] theorem updStation_gmem (s : State) (i : Nat) (f : Station → Station) : (s.updStation i f).gmem = s.gmem := rfl
@[simp] theorem updStation_groups (s : State) (i : Nat) (f : Station → Station) : (s.updStation i f).groups = s.groups := rfl
@[simp] theorem updStation_mapws (s : State) (i : Nat) (f : Station → Station) : (s.updStation i f).mapws = s.mapws := rfl
@[simp] theorem updStation_dist (s : State) (i : Nat) (f : Station → Station) : (s.updStation i f).dist = s.dist := rfl
@[simp] theorem updStation_rseq (s : State) (i : Nat) (f : Station → Station) : (s.updStation i f).rseq = s.rseq := rfl
@[simp] theorem updStation_gwSeq (s : State) (i : Nat) (f : Station → Station) : (s.updStation i f).gwSeq = s.gwSeq := rfl
@[simp] theorem updStation_handle (s : State) (i : Nat) (f : Station → Station) : (s.updStation i f).handle = s.handle := rfl
@[simp] theorem updStation_hostRecs (s : State) (i : Nat) (f : Station → Station) : (s.updStation i f).hostRecs = s.hostRecs := rfl
@[simp] theorem updStation_links (s : State) (i : Nat) (f : Station → Station) : (s.updStation i f).links = s.links := rfl
@[simp] theorem updStation_host (s : State) (i : Nat) (f : Station → Station) : (s.updStation i f).host = s.host := rfl
@[simp] theorem updStation_portCfg (s : State) (i : Nat) (f : Station → Station) : (s.updStation i f).portCfg = s.portCfg := rfl
@[simp] theorem updStation_routes (s : State) (i : Nat) (f : Station → Station) : (s.updStation i f).routes = s.routes := rfl
@[simp] theorem updStation_later (s : State) (i : Nat) (f : Station → Station) : (s.updStation i f).later = s.later := rfl
@[simp] theorem updStation_conns (s : State) (i : Nat) (f : Station → Station) : (s.updStation i f).conns = s.conns := rfl
@[simp] theorem updStation_recvs (s : State) (i : Nat) (f : Station → Station) : (s.updStation i f).recvs = s.recvs := rfl
@[simp] theorem updStation_live (s : State) (i : Nat) (f : Station → Station) : (s.updStation i f).live = s.live := rfl
@[simp] theorem updStation_readId (s : State) (i : Nat) (f : Station → Station) : (s.updStation i f).readId = s.readId := rfl
@[simp] theorem updStation_net (s : State) (i : Nat) (f : Station → Station) : (s.updStation i f).net = s.net := rfl
@[simp] theorem updStation_stores (s : State) (i : Nat) (f : Station → Station) : (s.updStation i f).stores = s.stores := rfl
@[simp] theorem updStation_pending (s : State) (i : Nat) (f : Station → Station) : (s.updStation i f).pending = s.pending := rfl
@[simp] theorem updStation_replays (s : State) (i : Nat) (f : Station → Station) : (s.updStation i f).replays = s.replays := rfl
@[simp] theorem updStation_notices (s : State) (i : Nat) (f : Station → Station) : (s.updStation i f).notices = s.notices := rfl
@[simp] theorem updStation_reads (s : State) (i : Nat) (f : Station → Station) : (s.updStation i f).reads = s.reads := rfl
@[simp] theorem updStation_replies (s : State) (i : Nat) (f : Station → Station) : (s.updStation i f).replies = s.replies := rfl
@[simp] theorem updStation_portWords (s : State) (i : Nat) (f : Station → Station) : (s.updStation i f).portWords = s.portWords := rfl
@[simp] theorem updStation_portPlaces (s : State) (i : Nat) (f : Station → Station) : (s.updStation i f).portPlaces = s.portPlaces := rfl
@[simp] theorem updStation_deliveries (s : State) (i : Nat) (f : Station → Station) : (s.updStation i f).deliveries = s.deliveries := rfl
@[simp] theorem updStation_parts (s : State) (i : Nat) (f : Station → Station) : (s.updStation i f).parts = s.parts := rfl
@[simp] theorem updStation_adds (s : State) (i : Nat) (f : Station → Station) : (s.updStation i f).adds = s.adds := rfl
@[simp] theorem updStation_frames (s : State) (i : Nat) (f : Station → Station) : (s.updStation i f).frames = s.frames := rfl
@[simp] theorem updStation_heldNotices (s : State) (i : Nat) (f : Station → Station) : (s.updStation i f).heldNotices = s.heldNotices := rfl
@[simp] theorem updStation_now (s : State) (i : Nat) (f : Station → Station) : (s.updStation i f).now = s.now := rfl
@[simp] theorem updStation_turns (s : State) (i : Nat) (f : Station → Station) : (s.updStation i f).turns = s.turns := rfl
@[simp] theorem updStation_cur (s : State) (i : Nat) (f : Station → Station) : (s.updStation i f).cur = s.cur := rfl
@[simp] theorem updStation_focus (s : State) (i : Nat) (f : Station → Station) : (s.updStation i f).focus = s.focus := rfl
@[simp] theorem updStation_free (s : State) (i : Nat) (f : Station → Station) : (s.updStation i f).free = s.free := rfl
@[simp] theorem updStation_hostOut (s : State) (i : Nat) (f : Station → Station) : (s.updStation i f).hostOut = s.hostOut := rfl
@[simp] theorem updStation_wireOut (s : State) (i : Nat) (f : Station → Station) : (s.updStation i f).wireOut = s.wireOut := rfl
@[simp] theorem updStation_at_ctx (s : State) (i : Nat) (f : Station → Station) (core' c' : Nat) : (s.updStation i f).ctx core' c' = s.ctx core' c' := rfl
@[simp] theorem updStation_at_act (s : State) (i : Nat) (f : Station → Station) (core' c' : Nat) : (s.updStation i f).act core' c' = s.act core' c' := rfl
@[simp] theorem updStation_at_core (s : State) (i : Nat) (f : Station → Station) (k : Nat) : (s.updStation i f).core k = s.core k := rfl
@[simp] theorem updStation_at_cluster (s : State) (i : Nat) (f : Station → Station) (k : Nat) : (s.updStation i f).cluster k = s.cluster k := rfl
@[simp] theorem updStation_at_die (s : State) (i : Nat) (f : Station → Station) (k : Nat) : (s.updStation i f).die k = s.die k := rfl
@[simp] theorem updStation_at_domain (s : State) (i : Nat) (f : Station → Station) (p : BitVec 16) : (s.updStation i f).domain p = s.domain p := rfl

/-! ## updDomain -/

@[simp] theorem updDomain_ctxs (s : State) (pid : BitVec 16) (f : Domain → Domain) : (s.updDomain pid f).ctxs = s.ctxs := rfl
@[simp] theorem updDomain_cores (s : State) (pid : BitVec 16) (f : Domain → Domain) : (s.updDomain pid f).cores = s.cores := rfl
@[simp] theorem updDomain_clusters (s : State) (pid : BitVec 16) (f : Domain → Domain) : (s.updDomain pid f).clusters = s.clusters := rfl
@[simp] theorem updDomain_dies (s : State) (pid : BitVec 16) (f : Domain → Domain) : (s.updDomain pid f).dies = s.dies := rfl
@[simp] theorem updDomain_stations (s : State) (pid : BitVec 16) (f : Domain → Domain) : (s.updDomain pid f).stations = s.stations := rfl
@[simp] theorem updDomain_chip (s : State) (pid : BitVec 16) (f : Domain → Domain) : (s.updDomain pid f).chip = s.chip := rfl
@[simp] theorem updDomain_gmem (s : State) (pid : BitVec 16) (f : Domain → Domain) : (s.updDomain pid f).gmem = s.gmem := rfl
@[simp] theorem updDomain_groups (s : State) (pid : BitVec 16) (f : Domain → Domain) : (s.updDomain pid f).groups = s.groups := rfl
@[simp] theorem updDomain_mapws (s : State) (pid : BitVec 16) (f : Domain → Domain) : (s.updDomain pid f).mapws = s.mapws := rfl
@[simp] theorem updDomain_dist (s : State) (pid : BitVec 16) (f : Domain → Domain) : (s.updDomain pid f).dist = s.dist := rfl
@[simp] theorem updDomain_rseq (s : State) (pid : BitVec 16) (f : Domain → Domain) : (s.updDomain pid f).rseq = s.rseq := rfl
@[simp] theorem updDomain_gwSeq (s : State) (pid : BitVec 16) (f : Domain → Domain) : (s.updDomain pid f).gwSeq = s.gwSeq := rfl
@[simp] theorem updDomain_handle (s : State) (pid : BitVec 16) (f : Domain → Domain) : (s.updDomain pid f).handle = s.handle := rfl
@[simp] theorem updDomain_hostRecs (s : State) (pid : BitVec 16) (f : Domain → Domain) : (s.updDomain pid f).hostRecs = s.hostRecs := rfl
@[simp] theorem updDomain_links (s : State) (pid : BitVec 16) (f : Domain → Domain) : (s.updDomain pid f).links = s.links := rfl
@[simp] theorem updDomain_host (s : State) (pid : BitVec 16) (f : Domain → Domain) : (s.updDomain pid f).host = s.host := rfl
@[simp] theorem updDomain_portCfg (s : State) (pid : BitVec 16) (f : Domain → Domain) : (s.updDomain pid f).portCfg = s.portCfg := rfl
@[simp] theorem updDomain_routes (s : State) (pid : BitVec 16) (f : Domain → Domain) : (s.updDomain pid f).routes = s.routes := rfl
@[simp] theorem updDomain_later (s : State) (pid : BitVec 16) (f : Domain → Domain) : (s.updDomain pid f).later = s.later := rfl
@[simp] theorem updDomain_conns (s : State) (pid : BitVec 16) (f : Domain → Domain) : (s.updDomain pid f).conns = s.conns := rfl
@[simp] theorem updDomain_recvs (s : State) (pid : BitVec 16) (f : Domain → Domain) : (s.updDomain pid f).recvs = s.recvs := rfl
@[simp] theorem updDomain_live (s : State) (pid : BitVec 16) (f : Domain → Domain) : (s.updDomain pid f).live = s.live := rfl
@[simp] theorem updDomain_readId (s : State) (pid : BitVec 16) (f : Domain → Domain) : (s.updDomain pid f).readId = s.readId := rfl
@[simp] theorem updDomain_net (s : State) (pid : BitVec 16) (f : Domain → Domain) : (s.updDomain pid f).net = s.net := rfl
@[simp] theorem updDomain_stores (s : State) (pid : BitVec 16) (f : Domain → Domain) : (s.updDomain pid f).stores = s.stores := rfl
@[simp] theorem updDomain_pending (s : State) (pid : BitVec 16) (f : Domain → Domain) : (s.updDomain pid f).pending = s.pending := rfl
@[simp] theorem updDomain_replays (s : State) (pid : BitVec 16) (f : Domain → Domain) : (s.updDomain pid f).replays = s.replays := rfl
@[simp] theorem updDomain_notices (s : State) (pid : BitVec 16) (f : Domain → Domain) : (s.updDomain pid f).notices = s.notices := rfl
@[simp] theorem updDomain_reads (s : State) (pid : BitVec 16) (f : Domain → Domain) : (s.updDomain pid f).reads = s.reads := rfl
@[simp] theorem updDomain_replies (s : State) (pid : BitVec 16) (f : Domain → Domain) : (s.updDomain pid f).replies = s.replies := rfl
@[simp] theorem updDomain_portWords (s : State) (pid : BitVec 16) (f : Domain → Domain) : (s.updDomain pid f).portWords = s.portWords := rfl
@[simp] theorem updDomain_portPlaces (s : State) (pid : BitVec 16) (f : Domain → Domain) : (s.updDomain pid f).portPlaces = s.portPlaces := rfl
@[simp] theorem updDomain_deliveries (s : State) (pid : BitVec 16) (f : Domain → Domain) : (s.updDomain pid f).deliveries = s.deliveries := rfl
@[simp] theorem updDomain_parts (s : State) (pid : BitVec 16) (f : Domain → Domain) : (s.updDomain pid f).parts = s.parts := rfl
@[simp] theorem updDomain_adds (s : State) (pid : BitVec 16) (f : Domain → Domain) : (s.updDomain pid f).adds = s.adds := rfl
@[simp] theorem updDomain_frames (s : State) (pid : BitVec 16) (f : Domain → Domain) : (s.updDomain pid f).frames = s.frames := rfl
@[simp] theorem updDomain_heldNotices (s : State) (pid : BitVec 16) (f : Domain → Domain) : (s.updDomain pid f).heldNotices = s.heldNotices := rfl
@[simp] theorem updDomain_now (s : State) (pid : BitVec 16) (f : Domain → Domain) : (s.updDomain pid f).now = s.now := rfl
@[simp] theorem updDomain_turns (s : State) (pid : BitVec 16) (f : Domain → Domain) : (s.updDomain pid f).turns = s.turns := rfl
@[simp] theorem updDomain_cur (s : State) (pid : BitVec 16) (f : Domain → Domain) : (s.updDomain pid f).cur = s.cur := rfl
@[simp] theorem updDomain_focus (s : State) (pid : BitVec 16) (f : Domain → Domain) : (s.updDomain pid f).focus = s.focus := rfl
@[simp] theorem updDomain_free (s : State) (pid : BitVec 16) (f : Domain → Domain) : (s.updDomain pid f).free = s.free := rfl
@[simp] theorem updDomain_hostOut (s : State) (pid : BitVec 16) (f : Domain → Domain) : (s.updDomain pid f).hostOut = s.hostOut := rfl
@[simp] theorem updDomain_wireOut (s : State) (pid : BitVec 16) (f : Domain → Domain) : (s.updDomain pid f).wireOut = s.wireOut := rfl
@[simp] theorem updDomain_at_ctx (s : State) (pid : BitVec 16) (f : Domain → Domain) (core' c' : Nat) : (s.updDomain pid f).ctx core' c' = s.ctx core' c' := rfl
@[simp] theorem updDomain_at_act (s : State) (pid : BitVec 16) (f : Domain → Domain) (core' c' : Nat) : (s.updDomain pid f).act core' c' = s.act core' c' := rfl
@[simp] theorem updDomain_at_core (s : State) (pid : BitVec 16) (f : Domain → Domain) (k : Nat) : (s.updDomain pid f).core k = s.core k := rfl
@[simp] theorem updDomain_at_cluster (s : State) (pid : BitVec 16) (f : Domain → Domain) (k : Nat) : (s.updDomain pid f).cluster k = s.cluster k := rfl
@[simp] theorem updDomain_at_die (s : State) (pid : BitVec 16) (f : Domain → Domain) (k : Nat) : (s.updDomain pid f).die k = s.die k := rfl
@[simp] theorem updDomain_at_station (s : State) (pid : BitVec 16) (f : Domain → Domain) (k : Nat) : (s.updDomain pid f).station k = s.station k := rfl

/-! ## What the accessors read after an update of their own unit -/

/-- A context after an update of a context. -/
theorem ctx_updCtx (s : State) (core c core' c' : Nat) (f : Ctx → Ctx) :
    (s.updCtx core c f).ctx core' c' = if 8 * core' + c' = 8 * core + c then f (s.ctx core c) else s.ctx core' c' :=
  Tab.look_set Ctx.reset s.ctxs (8 * core + c) (8 * core' + c') (f (s.ctx core c))

@[simp] theorem ctx_updCtx_same (s : State) (core c : Nat) (f : Ctx → Ctx) :
    (s.updCtx core c f).ctx core c = f (s.ctx core c) := by simp [ctx_updCtx]

@[simp] theorem act_updAct_same (s : State) (core c : Nat) (f : Act → Act) :
    (s.updAct core c f).act core c = (s.act core c).map f := by simp [updAct, act]

/-- A core after an update of a core. -/
theorem core_updCore (s : State) (core k : Nat) (f : Core → Core) :
    (s.updCore core f).core k = if k = core then f (s.core core) else s.core k :=
  Tab.look_set Core.reset s.cores core k (f (s.core core))

@[simp] theorem core_updCore_same (s : State) (core : Nat) (f : Core → Core) :
    (s.updCore core f).core core = f (s.core core) := by simp [core_updCore]

/-- A cluster after an update of a cluster. -/
theorem cluster_updCluster (s : State) (cl k : Nat) (f : Cluster → Cluster) :
    (s.updCluster cl f).cluster k = if k = cl then f (s.cluster cl) else s.cluster k :=
  Tab.look_set Cluster.reset s.clusters cl k (f (s.cluster cl))

@[simp] theorem cluster_updCluster_same (s : State) (cl : Nat) (f : Cluster → Cluster) :
    (s.updCluster cl f).cluster cl = f (s.cluster cl) := by simp [cluster_updCluster]

/-- A die after an update of a die. -/
theorem die_updDie (s : State) (d k : Nat) (f : Die → Die) :
    (s.updDie d f).die k = if k = d then f (s.die d) else s.die k :=
  Tab.look_set Die.reset s.dies d k (f (s.die d))

/-- A station after an update of a station. -/
theorem station_updStation (s : State) (i k : Nat) (f : Station → Station) :
    (s.updStation i f).station k = if k = i then f (s.station i) else s.station k :=
  Tab.look_set Station.reset s.stations i k (f (s.station i))

/-- A domain after an update of a domain. -/
theorem domain_updDomain (s : State) (pid p : BitVec 16) (f : Domain → Domain) :
    (s.updDomain pid f).domain p = if p = pid then f (s.domain pid) else s.domain p := by
  simp only [domain, updDomain, Tab.look_set, BitVec.toNat_inj]

/-! ## The register view of an update that leaves a context's registers alone -/

/-- The memories after a write of one. -/
@[simp] theorem mem_setMem_same (s : State) (p : MemPlace) (m : Mem) : (s.setMem p m).mem p = m := by
  cases p <;> simp [setMem, mem]

/-- A write of one memory leaves the others alone. -/
theorem mem_setMem_other (s : State) (p q : MemPlace) (m : Mem) (h : q ≠ p) : (s.setMem p m).mem q = s.mem q := by
  cases p <;> cases q <;> first | rfl | simp_all [setMem, mem, core_updCore, cluster_updCluster]

@[simp] theorem setMem_ctxs (s : State) (p : MemPlace) (m : Mem) : (s.setMem p m).ctxs = s.ctxs := by
  cases p <;> rfl

@[simp] theorem setMem_cur (s : State) (p : MemPlace) (m : Mem) : (s.setMem p m).cur = s.cur := by
  cases p <;> rfl

@[simp] theorem setMem_portWords (s : State) (p : MemPlace) (m : Mem) : (s.setMem p m).portWords = s.portWords := by
  cases p <;> rfl

@[simp] theorem updMem_ctxs (s : State) (p : MemPlace) (f : Mem → Mem) : (s.updMem p f).ctxs = s.ctxs := setMem_ctxs ..
@[simp] theorem updMem_cur (s : State) (p : MemPlace) (f : Mem → Mem) : (s.updMem p f).cur = s.cur := setMem_cur ..
@[simp] theorem updMem_portWords (s : State) (p : MemPlace) (f : Mem → Mem) : (s.updMem p f).portWords = s.portWords := setMem_portWords ..

/-- A memory after an update of a memory. -/
theorem mem_updMem (s : State) (p q : MemPlace) (f : Mem → Mem) :
    (s.updMem p f).mem q = if q = p then f (s.mem p) else s.mem q := by
  split
  · subst q; exact mem_setMem_same ..
  · exact mem_setMem_other s p q _ ‹_›

end State

end Sys2Proof.Machine
end

