-- ==== Sys2Proof/Laws/Keeps.lean ====
section
/-! SUPPORT. Sys2Proof/Laws/Keeps.lean: what handing on messages, records and engine commands leaves alone: no context,
no byte of memory and no cursor changes, and memories keep their canonical form. -/

namespace Sys2Proof.Machine

/-- From s to t no context, no port word, no byte of memory and no cursor changes, and memories keep their canonical
form. -/
structure Keeps (s t : State) : Prop where
  ctxs : t.ctxs = s.ctxs
  cur : t.cur = s.cur
  words : t.portWords = s.portWords
  bytes : ∀ p a, (t.mem p).byte a = (s.mem p).byte a
  wf : (∀ p, (s.mem p).wf) → ∀ p, (t.mem p).wf

namespace Keeps

theorem refl (s : State) : Keeps s s := ⟨rfl, rfl, rfl, fun _ _ => rfl, id⟩

theorem trans {s t u : State} (h : Keeps s t) (k : Keeps t u) : Keeps s u :=
  ⟨k.ctxs.trans h.ctxs, k.cur.trans h.cur, k.words.trans h.words, fun p a => (k.bytes p a).trans (h.bytes p a), fun w => k.wf (h.wf w)⟩

/-- An update of fields that hold no memory. -/
theorem of_eq {s t : State} (h1 : t.ctxs = s.ctxs) (h2 : t.cur = s.cur) (h3 : t.cores = s.cores)
    (h4 : t.clusters = s.clusters) (h5 : t.gmem = s.gmem) (h6 : t.portWords = s.portWords) : Keeps s t := by
  have hm : ∀ p, t.mem p = s.mem p := by
    intro p
    cases p <;> simp [State.mem, State.core, State.cluster, h3, h4, h5]
  exact ⟨h1, h2, h6, fun p a => by rw [hm], fun w p => by rw [hm]; exact w p⟩

/-- A change of a core that leaves its memory alone. -/
theorem updCore (s : State) (c : Nat) (f : Core → Core) (h : (f (s.core c)).tcm = (s.core c).tcm) :
    Keeps s (s.updCore c f) := by
  have hm : ∀ p, (s.updCore c f).mem p = s.mem p := by
    intro p
    cases p with
    | tcm k =>
      simp only [State.mem, State.core_updCore]
      split
      · subst k; exact h
      · rfl
    | spad k => rfl
    | global => rfl
  exact ⟨rfl, rfl, rfl, fun p a => by rw [hm], fun w p => by rw [hm]; exact w p⟩

/-- A change of a cluster that leaves its memory alone. -/
theorem updCluster (s : State) (c : Nat) (f : Cluster → Cluster) (h : (f (s.cluster c)).spad = (s.cluster c).spad) :
    Keeps s (s.updCluster c f) := by
  have hm : ∀ p, (s.updCluster c f).mem p = s.mem p := by
    intro p
    cases p with
    | tcm k => rfl
    | spad k =>
      simp only [State.mem, State.cluster_updCluster]
      split
      · subst k; exact h
      · rfl
    | global => rfl
  exact ⟨rfl, rfl, rfl, fun p a => by rw [hm], fun w p => by rw [hm]; exact w p⟩

/-- A change of a memory that keeps its bytes and its form. -/
theorem updMem (s : State) (p : MemPlace) (f : Mem → Mem) (hb : ∀ m a, (f m).byte a = m.byte a)
    (hw : ∀ m, m.wf → (f m).wf) : Keeps s (s.updMem p f) := by
  refine ⟨State.updMem_ctxs .., State.updMem_cur .., State.updMem_portWords .., fun q a => ?_, fun w q => ?_⟩ <;> rw [State.mem_updMem]
  · split
    · subst q; exact hb _ a
    · rfl
  · split
    · subst q; exact hw _ (w _)
    · exact w q

/-- A fold of steps that keep. -/
theorem foldl {α : Type} (f : State → α → State) (h : ∀ s x, Keeps s (f s x)) (l : List α) (s : State) :
    Keeps s (l.foldl f s) := by
  induction l generalizing s with
  | nil => exact refl s
  | cons x r ih => exact (h s x).trans (ih _)

end Keeps

namespace State

theorem keeps_setLocalSide (s : State) (core a : Nat) (x : Side) : Keeps s (s.setLocalSide core a x) :=
  Keeps.updMem s _ _ (fun _ _ => rfl) fun m h => Mem.wf_setLine m _ x h

theorem keeps_updDie (s : State) (d : Nat) (f : Die → Die) : Keeps s (s.updDie d f) := Keeps.of_eq rfl rfl rfl rfl rfl rfl

theorem keeps_toHost (s : State) (ws : List Word) : Keeps s (s.toHost ws) := by
  unfold toHost
  split <;> exact Keeps.of_eq rfl rfl rfl rfl rfl rfl

theorem keeps_setConn (s : State) (c : Conn) : Keeps s (s.setConn c) := by
  unfold setConn
  split <;> exact Keeps.of_eq rfl rfl rfl rfl rfl rfl

theorem keeps_onWire (s : State) (chip : BitVec 22) (cls : Fin 4) (q : Word) (p : Packet) :
    Keeps s (s.onWire chip cls q p) := by
  unfold onWire
  split <;> exact Keeps.of_eq rfl rfl rfl rfl rfl rfl

theorem keeps_transmit (s : State) (chip : BitVec 22) (cls : Fin 4) (p : Packet) : Keeps s (s.transmit chip cls p) :=
  (keeps_setConn s _).trans (keeps_onWire ..)

theorem keeps_gateway (s : State) (chip : BitVec 22) (cls : Fin 4) (p : Packet) : Keeps s (s.gateway chip cls p) := by
  unfold gateway
  dsimp only
  split
  · exact keeps_transmit ..
  · exact keeps_setConn ..

theorem keeps_routeLast (s : State) (m : Msg) (ws : List Word) (r : Resolved) : Keeps s (s.routeLast m ws r) := by
  unfold routeLast
  split
  · exact keeps_toHost ..
  · exact Keeps.of_eq rfl rfl rfl rfl rfl rfl
  · split
    · exact keeps_toHost ..
    · exact keeps_gateway ..

theorem keeps_nextRseq (s : State) : Keeps s s.nextRseq.2 := Keeps.of_eq rfl rfl rfl rfl rfl rfl

theorem keeps_nextSeq (s : State) (core : Nat) : Keeps s (s.nextSeq core).2 :=
  Keeps.updCore s core (fun c => { c with seq := c.seq + 1 }) rfl

theorem keeps_unitSeq (s : State) (u : Unit) : Keeps s (s.unitSeq u).2 := by
  cases u <;> exact Keeps.of_eq rfl rfl rfl rfl rfl rfl

theorem keeps_unitReportBy (route : State → Msg → List Word → Resolved → State) (hr : ∀ s m ws r, Keeps s (route s m ws r))
    (s : State) (u : Unit) (host : Bool) (r : Report) : Keeps s (unitReportBy route s u host r) := by
  simp only [unitReportBy]
  refine Keeps.trans ((keeps_nextRseq s).trans (keeps_unitSeq _ u)) ?_
  split
  · exact keeps_toHost ..
  · exact hr ..

theorem keeps_park (s : State) (die : Nat) (x : Parked) : Keeps s (s.park die x).2 :=
  Keeps.of_eq rfl rfl rfl rfl rfl rfl

theorem keeps_msgBody (s : State) (die : Nat) (m : Msg) (p : List Word) : Keeps s (s.msgBody die m p).2.2 := by
  simp only [msgBody]
  split
  · exact keeps_park ..
  · exact Keeps.refl s

theorem keeps_keepRoute (s : State) (r : Route) : Keeps s (s.keepRoute r) := Keeps.of_eq rfl rfl rfl rfl rfl rfl

theorem keeps_waitRoom (s : State) (x : Later) : Keeps s (s.waitRoom x) := Keeps.of_eq rfl rfl rfl rfl rfl rfl

theorem keeps_deadRecord (s : State) (u : Unit) (unit uidx : Nat) (m : Msg) (i0 i1 : Word) :
    Keeps s (s.deadRecord u unit uidx m i0 i1) := by
  simp only [deadRecord]
  exact (keeps_msgBody s 0 m []).trans (keeps_unitReportBy _ keeps_routeLast ..)

theorem keeps_abandonMsg (s : State) (chip : BitVec 22) (cls : Fin 4) (q : Word) (m : Msg) :
    Keeps s (s.abandonMsg chip cls q m) := by
  unfold abandonMsg
  split
  · exact keeps_waitRoom ..
  · exact (keeps_keepRoute ..).trans (keeps_deadRecord ..)

theorem keeps_routeRecord (s : State) (m : Msg) (ws : List Word) (r : Resolved) : Keeps s (s.routeRecord m ws r) := by
  unfold routeRecord
  split
  · dsimp only
    split
    · exact (keeps_setConn s _).trans (keeps_abandonMsg ..)
    · exact keeps_routeLast ..
  · exact keeps_routeLast ..

theorem keeps_coreReportTo (s : State) (core : Nat) (host : Bool) (t : Resolved) (r : Report) :
    Keeps s (s.coreReportTo core host t r) := by
  simp only [coreReportTo]
  refine Keeps.trans ((keeps_nextRseq s).trans (keeps_nextSeq _ core)) ?_
  split
  · exact keeps_toHost ..
  · exact keeps_routeRecord ..

theorem keeps_coreReport (s : State) (core : Nat) (host : Bool) (r : Report) : Keeps s (s.coreReport core host r) :=
  keeps_coreReportTo ..

theorem keeps_coreEvent (s : State) (core : Nat) (b : Behalf) (code : Nat) (i0 i1 : Word) :
    Keeps s (s.coreEvent core b code i0 i1) := by
  unfold coreEvent
  exact keeps_coreReport ..

theorem keeps_unitReport (s : State) (u : Unit) (host : Bool) (r : Report) : Keeps s (s.unitReport u host r) :=
  keeps_unitReportBy _ keeps_routeRecord ..

/-- A change of global memory that keeps its bytes and its form. -/
theorem keeps_gmem (s : State) (m : Mem) (hb : ∀ a, m.byte a = s.gmem.byte a) (hw : s.gmem.wf → m.wf) :
    Keeps s { s with gmem := m } := by
  refine ⟨rfl, rfl, rfl, fun p a => ?_, fun w p => ?_⟩
  · cases p
    · rfl
    · rfl
    · exact hb a
  · cases p
    · exact w (.tcm _)
    · exact w (.spad _)
    · exact hw (w .global)

theorem keeps_updStation (s : State) (i : Nat) (f : Station → Station) : Keeps s (s.updStation i f) :=
  Keeps.of_eq rfl rfl rfl rfl rfl rfl

theorem keeps_hostEvent (s : State) (u : Unit) (unit uidx code : Nat) (i0 i1 : Word) :
    Keeps s (s.hostEvent u unit uidx code i0 i1) := keeps_unitReport ..

theorem keeps_unitEvent (s : State) (u : Unit) (unit uidx code : Nat) (pid tag : BitVec 16) (i0 i1 : Word) :
    Keeps s (s.unitEvent u unit uidx code pid tag i0 i1) := keeps_unitReport ..

theorem keeps_stationCorrected (s : State) (i : Nat) : Keeps s (s.stationCorrected i) := by
  simp only [stationCorrected]
  split
  · exact (keeps_updStation ..).trans (keeps_hostEvent ..)
  · exact keeps_updStation ..

theorem keeps_stationUncorrectable (s : State) (i : Nat) (pid tag : BitVec 16) (a : Nat) :
    Keeps s (s.stationUncorrectable i pid tag a) := by
  simp only [stationUncorrectable]
  refine Keeps.trans ?_ (keeps_hostEvent ..)
  refine Keeps.trans ?_ (keeps_unitEvent ..)
  refine Keeps.trans ?_ (keeps_updStation ..)
  exact keeps_gmem s _ (fun _ => rfl) fun h => Mem.wf_setLine _ _ _ h

theorem keeps_repair (s : State) (a : Nat) : Keeps s (s.repair a) := by
  unfold repair
  have h : ∀ (l : List Nat) (m : Mem),
      (∀ x, (l.foldl (fun (m : Mem) k => m.clearErr ((codeUnit a).1 + 4 * k)) m).byte x = m.byte x) ∧
      (m.wf → (l.foldl (fun (m : Mem) k => m.clearErr ((codeUnit a).1 + 4 * k)) m).wf) := by
    intro l
    induction l with
    | nil => exact fun m => ⟨fun _ => rfl, id⟩
    | cons k r ih => exact fun m => ⟨fun x => (ih _).1 x, fun w => (ih _).2 (Mem.wf_clearErr m _ w)⟩
  exact keeps_gmem s _ (h _ _).1 (h _ _).2

/-- A checked read of global memory (R76) changes no byte. -/
theorem keeps_checkGlobal (s : State) (i : Nat) (pid tag : BitVec 16) (a : Nat) : Keeps s (s.checkGlobal i pid tag a).1 := by
  unfold checkGlobal
  split
  · exact Keeps.refl s
  · exact (keeps_repair ..).trans (keeps_stationCorrected ..)
  · exact keeps_stationUncorrectable ..

theorem keeps_noteTables (s : State) (pid tag : BitVec 16) (r l : Option Nat) : Keeps s (s.noteTables pid tag r l) := by
  simp only [noteTables]
  exact Keeps.foldl _ (fun _ _ => keeps_checkGlobal ..) _ _

theorem keeps_noteEntries (s : State) (pid tag l : BitVec 16) (rk : BitVec 22) : Keeps s (s.noteEntries pid tag l rk) :=
  keeps_noteTables ..

/-- A resolution, its reads checked, changes no byte (R76, R92). -/
theorem keeps_lookUp (s : State) (pid tag l : BitVec 16) (rk : BitVec 22) : Keeps s (s.lookUp pid tag l rk).1 := by
  simp only [lookUp]
  exact keeps_noteEntries ..

theorem keeps_answerDead (s : State) (core unit : Nat) (a : Msg) (l : BitVec 16) (rk : BitVec 22) :
    Keeps s (s.answerDead core unit a l rk) := by
  simp only [answerDead]
  exact (keeps_nextSeq s core).trans (keeps_coreReportTo ..)

theorem keeps_send (s : State) (m : Msg) : Keeps s (s.send m) := by
  simp only [send]
  split
  · exact Keeps.of_eq rfl rfl rfl rfl rfl rfl
  · split
    · exact (keeps_setConn s _).trans (keeps_abandonMsg ..)
    · exact keeps_gateway ..

theorem keeps_sendFrom (s : State) (core : Nat) (m : Msg) : Keeps s (s.sendFrom core m) :=
  (keeps_nextSeq s core).trans (keeps_send ..)

theorem keeps_answerTo (s : State) (u : Unit) (unit : Nat) (pid l : BitVec 16) (rk : BitVec 22) (tag : BitVec 16)
    (hw : Word) (b : List Word) : Keeps s (s.answerTo u unit pid l rk tag hw b) := by
  simp only [answerTo]
  have h := (keeps_unitSeq s u).trans (keeps_lookUp _ pid tag l rk)
  generalize (s.unitSeq u).2.lookUp pid tag l rk = x at h
  obtain ⟨t, r⟩ := x
  split
  · rename_i e
    cases e
    exact h.trans (keeps_deadRecord ..)
  · rename_i e
    cases e
    exact h.trans (keeps_send ..)

theorem keeps_answerFrom (s : State) (core unit : Nat) (m : Msg) (l : BitVec 16) (rk : BitVec 22) :
    Keeps s (s.answerFrom core unit m l rk) := by
  have h := keeps_lookUp s m.pid m.stag l rk
  unfold answerFrom
  generalize s.lookUp m.pid m.stag l rk = x at h
  obtain ⟨t, r⟩ := x
  split
  · rename_i e
    cases e
    exact h.trans (keeps_answerDead ..)
  · rename_i e
    cases e
    exact h.trans (keeps_sendFrom ..)

theorem keeps_completion (s : State) (by_ : Issuer) (hw : Word) (b : List Word) : Keeps s (s.completion by_ hw b) :=
  keeps_sendFrom ..

theorem keeps_answerCore (s : State) (by_ : Issuer) (hw : Option Word) (b : List Word) :
    Keeps s (s.answerCore by_ hw b) := by
  unfold answerCore
  split
  · exact Keeps.refl s
  · exact keeps_answerFrom ..

theorem keeps_holdStep (s : State) (pid : BitVec 16) (f : HoldFault) : Keeps s (s.holdStep pid f) := by
  simp only [holdStep]
  have h : Keeps s (s.updDomain pid fun d => { d with faults := d.faults ++ [f] }) := Keeps.of_eq rfl rfl rfl rfl rfl rfl
  split
  · exact h
  · exact h.trans (keeps_gateway ..)

theorem keeps_storeFault (s : State) (u : Unit) (unit uidx die : Nat) (st : FarStore) (cause code : Nat)
    (i0 i1 : Word) (ranks : List Nat) (total : Nat) :
    Keeps s (s.storeFault u unit uidx die st cause code i0 i1 ranks total) := by
  have hp : ∀ x, Keeps s (if st.kind = .cpfst then s.park die x else ((0 : Word), s)).2 := by
    intro x
    split
    · exact keeps_park ..
    · exact Keeps.refl s
  unfold storeFault
  extract_lets step
  have hp := hp (.request st.by_.pid (step.elim 0 HoldFault.step) st.words st.pairs)
  generalize (if st.kind = .cpfst then s.park die (.request st.by_.pid (step.elim 0 HoldFault.step) st.words st.pairs) else ((0 : Word), s)) = x at hp
  obtain ⟨h, t⟩ := x
  clear_value step
  dsimp only at hp ⊢
  cases step
  · refine Keeps.trans ?_ (keeps_unitReport ..)
    exact hp
  · refine Keeps.trans ?_ (keeps_holdStep ..)
    refine Keeps.trans ?_ (keeps_unitReport ..)
    exact hp

theorem keeps_groupFaults (s : State) (st : FarStore) (failed : List (BitVec 22 × Nat × Word)) :
    Keeps s (s.groupFaults st failed) := by
  simp only [groupFaults]
  refine Keeps.trans ?_ (Keeps.foldl _ (fun s x => (keeps_keepRoute ..).trans (keeps_storeFault ..)) _ _)
  exact Keeps.foldl _ (fun s c => Keeps.foldl _ (fun s k => keeps_storeFault ..) _ _) _ _

theorem keeps_clearHold (s : State) (pid tag l : BitVec 16) (rk : BitVec 22) (q : Word) :
    Keeps s (s.clearHold pid tag l rk q) := by
  simp only [clearHold]
  split
  · exact Keeps.of_eq rfl rfl rfl rfl rfl rfl
  · exact Keeps.trans (t := s.updDomain pid _) (Keeps.of_eq rfl rfl rfl rfl rfl rfl) (keeps_gateway ..)

theorem keeps_updCopy (s : State) (cl id : Nat) (f : CpCmd → CpCmd) : Keeps s (s.updCopy cl id f) := by
  unfold updCopy
  exact Keeps.updCluster s cl (fun x => { x with cpq := _ }) rfl

theorem keeps_finishRedlv (s : State) (r : ReplayRef) (status : Nat) : Keeps s (s.finishRedlv r status) := by
  simp only [finishRedlv]
  split
  · exact keeps_answerCore ..
  · exact (keeps_setLocalSide ..).trans (keeps_answerCore ..)

theorem keeps_replayEnded (s : State) (r : ReplayRef) (status : Nat) : Keeps s (s.replayEnded r status) := by
  unfold replayEnded
  split
  · exact keeps_finishRedlv ..
  · exact keeps_gateway ..

theorem keeps_replayOutcome (s : State) (r : ReplayRef) (chip : BitVec 22) (status : Nat) (num : Word) :
    Keeps s (s.replayOutcome r chip status num) := by
  unfold replayOutcome
  split
  · exact Keeps.refl s
  · extract_lets chips w t st u v
    have ht : Keeps s t := Keeps.of_eq rfl rfl rfl rfl rfl rfl
    clear_value t
    have hu : Keeps s u := by
      dsimp only [u]
      split
      · exact ht.trans (keeps_groupFaults ..)
      · exact ht
    clear_value u
    split
    · refine Keeps.trans (t := v) ?_ (keeps_replayEnded ..)
      dsimp only [v]
      split
      · exact hu
      · exact hu.trans (keeps_clearHold ..)
    · exact Keeps.of_eq rfl rfl rfl rfl rfl rfl

theorem keeps_countAccepted (s : State) (core : Nat) (q : Word) (chip : BitVec 22) (cause : Nat) (num : Word) :
    Keeps s (s.countAccepted core q chip cause num) := by
  unfold countAccepted
  extract_lets mine
  split
  · exact Keeps.refl s
  · extract_lets p t u
    have ht : Keeps s t := Keeps.of_eq rfl rfl rfl rfl rfl rfl
    clear_value t
    have hu : Keeps s u := by
      refine ht.trans ?_
      dsimp only [u]
      split
      · split
        · exact keeps_groupFaults ..
        · exact Keeps.refl t
      · exact Keeps.refl t
    clear_value u
    split
    · exact hu
    · exact hu.trans (keeps_updCopy ..)

theorem keeps_linesEnded (s : State) (cl id st : Nat) : Keeps s (s.linesEnded cl id st) := keeps_updCopy ..

theorem keeps_abandon (s : State) (chip : BitVec 22) (cls : Fin 4) (q : Word) (p : Packet) :
    Keeps s (s.abandon chip cls q p) := by
  unfold abandon
  split
  · exact keeps_abandonMsg ..
  · extract_lets awaited
    split
    · rename_i ranks t _
      have h : Keeps s t := by
        dsimp only [t]
        split
        · exact Keeps.refl s
        · exact (keeps_keepRoute ..).trans (keeps_storeFault ..)
      clear_value t
      split
      · exact h.trans (keeps_replayOutcome ..)
      · exact h.trans (keeps_countAccepted ..)
    · exact keeps_waitRoom ..
  · exact Keeps.of_eq rfl rfl rfl rfl rfl rfl
  · split
    · exact keeps_linesEnded ..
    · exact Keeps.refl s
  · exact Keeps.refl s

theorem keeps_sendPacket (s : State) (chip : BitVec 22) (cls : Fin 4) (p : Packet) :
    Keeps s (s.sendPacket chip cls p) := by
  simp only [sendPacket]
  split
  · exact (keeps_setConn s _).trans (keeps_abandon ..)
  · exact keeps_gateway ..

theorem keeps_sendOutcome (s : State) (st : FarStore) (status : Nat) : Keeps s (s.sendOutcome st status) := by
  unfold sendOutcome
  split
  · split
    · exact Keeps.refl s
    · exact keeps_gateway ..
  · split
    · exact keeps_replayOutcome ..
    · exact Keeps.of_eq rfl rfl rfl rfl rfl rfl

theorem keeps_storeOutcome (s : State) (st : FarStore) (status : Nat) : Keeps s (s.storeOutcome st status) := by
  unfold storeOutcome
  split
  · split
    · exact Keeps.of_eq rfl rfl rfl rfl rfl rfl
    · exact keeps_sendOutcome ..
  · exact keeps_sendOutcome ..

theorem keeps_countCorrected (s : State) (core : Nat) (b : Behalf) : Keeps s (s.countCorrected core b) := by
  unfold countCorrected
  extract_lets cl x n
  split
  · refine Keeps.trans ?_ (keeps_coreEvent ..)
    exact Keeps.updCluster s _ (fun x => { x with ceCnt := 0 }) rfl
  · exact Keeps.updCluster s _ (fun x => { x with ceCnt := _ }) rfl

theorem keeps_countUncorrectable (s : State) (core : Nat) (b : Behalf) (addr : Nat) :
    Keeps s (s.countUncorrectable core b addr) := by
  simp only [countUncorrectable]
  refine Keeps.trans ?_ (keeps_coreEvent ..)
  refine Keeps.trans ?_ (Keeps.updCluster _ _ (fun x => { x with ueCnt := _ }) rfl)
  exact keeps_setLocalSide ..

theorem keeps_freeWord (s : State) : Keeps s s.freeWord.2 := Keeps.of_eq rfl rfl rfl rfl rfl rfl

/-- A checked read of local memory (R74) changes no byte. -/
theorem keeps_readFor (s : State) (core : Nat) (b : Behalf) (addr : Nat) : Keeps s (s.readFor core b addr).1 := by
  simp only [readFor]
  split
  · exact Keeps.refl s
  · refine Keeps.trans ?_ (keeps_countCorrected ..)
    exact Keeps.updMem s _ (fun m => m.clearErr _) (fun m a => rfl) fun m h => Mem.wf_clearErr m _ h
  · exact (keeps_freeWord s).trans (keeps_countUncorrectable ..)

theorem keeps_readLocal (s : State) (core c unit addr : Nat) : Keeps s (s.readLocal core c unit addr).1 :=
  keeps_readFor ..

/-- A read of a global word as one of the words of an access changes no byte (R76). -/
theorem keeps_readCoded (s : State) (i : Nat) (pid tag : BitVec 16) (seen : List Nat) (a : Nat) :
    Keeps s (s.readCoded i pid tag seen a).1 := by
  unfold readCoded
  split
  · dsimp only
    refine Keeps.trans ?_ (keeps_freeWord _)
    split
    · exact Keeps.refl s
    · exact keeps_checkGlobal ..
  · exact keeps_checkGlobal ..

theorem keeps_readList (s : State) (pid tag : BitVec 16) (seen l : List Nat) : Keeps s (s.readList pid tag seen l).1 := by
  induction l generalizing s seen with
  | nil => exact Keeps.refl s
  | cons a r ih => exact (keeps_readCoded ..).trans (ih ..)

theorem keeps_groupMembers (s : State) (pid tag : BitVec 16) (num : Nat) : Keeps s (s.groupMembers pid tag num).1 :=
  keeps_readList ..

theorem keeps_lookUpMember (s : State) (m : Msg) (sv ep : BitVec 16 × BitVec 22) : Keeps s (s.lookUpMember m sv ep).1 := by
  have h := fun e : BitVec 16 × BitVec 22 => keeps_lookUp s m.pid m.stag e.1 e.2
  unfold lookUpMember
  by_cases h1 : ep.1 = 0xFFFE
  · by_cases h2 : sv.1 = 0xFFFF
    · rw [if_pos h1, if_pos h2]
      exact Keeps.refl s
    · rw [if_pos h1, if_neg h2]
      have k := h sv
      generalize s.lookUp m.pid m.stag sv.1 sv.2 = x at k ⊢
      exact k
  · rw [if_neg h1]
    have k := h ep
    generalize s.lookUp m.pid m.stag ep.1 ep.2 = x at k ⊢
    exact k

theorem keeps_memberCopy (s : State) (m : Msg) (ep : BitVec 16 × BitVec 22) (r : Resolved) :
    Keeps s (s.memberCopy m ep r) := by
  unfold memberCopy
  split
  · exact keeps_deadRecord ..
  · exact keeps_send ..

theorem keeps_memberSend (m : Msg) (num : Nat) (sv : BitVec 16 × BitVec 22) (x : State × List (BitVec 22))
    (ep : BitVec 16 × BitVec 22) : Keeps x.1 (memberSend m num sv x ep).1 := by
  have h := keeps_lookUpMember x.1 m sv ep
  simp only [memberSend]
  split
  · split
    · exact h
    · exact h.trans (keeps_send ..)
  · exact h.trans (keeps_memberCopy ..)

theorem keeps_multicast (s : State) (core num : Nat) (m : Msg) : Keeps s (s.multicast core num m) := by
  have h : ∀ (m : Msg) (sv : BitVec 16 × BitVec 22) (l : List (BitVec 16 × BitVec 22)) (x : State × List (BitVec 22)),
      Keeps x.1 (l.foldl (memberSend m num sv) x).1 := by
    intro m sv l
    induction l with
    | nil => exact fun x => Keeps.refl _
    | cons a r ih => exact fun x => (keeps_memberSend ..).trans (ih _)
  simp only [multicast]
  refine ((keeps_groupMembers s m.pid m.stag num).trans (keeps_nextSeq _ core)).trans ?_
  exact h _ _ _ (((s.groupMembers m.pid m.stag num).1.nextSeq core).2, [])

theorem keeps_memberHere (m : Msg) (sv : BitVec 16 × BitVec 22) (s : State) (ep : BitVec 16 × BitVec 22) :
    Keeps s (memberHere m sv s ep) := by
  have h := keeps_lookUpMember s m sv ep
  unfold memberHere
  generalize s.lookUpMember m sv ep = x at h ⊢
  extract_lets rank here
  clear_value here
  cases here
  · exact h
  · exact h.trans (keeps_memberCopy ..)

theorem keeps_receiveCopy (s : State) (m : Msg) (num : Nat) : Keeps s (s.receiveCopy m num) := by
  simp only [receiveCopy]
  split
  · exact (keeps_groupMembers ..).trans (Keeps.foldl _ (fun _ _ => keeps_memberHere ..) _ _)
  · exact keeps_memberCopy ..

theorem keeps_askLeave (s : State) (cl : Nat) : Keeps s (s.askLeave cl) := by
  simp only [askLeave]
  split
  · refine Keeps.trans ?_ (keeps_updDie ..)
    exact Keeps.updCluster s cl (fun x => { x with wlvSince := _ }) rfl
  · exact Keeps.refl s

theorem keeps_cpEnter (s : State) (cl : Nat) (c : CpCmd) : Keeps s (s.cpEnter cl c) := by
  unfold cpEnter
  exact Keeps.updCluster s cl (fun x => { x with cpq := _, nextCp := _ }) rfl

theorem keeps_recordMsgOf (s : State) (w : List Word) : Keeps s (s.recordMsgOf w).2 := by
  simp only [recordMsgOf]
  split
  · split
    · exact Keeps.of_eq rfl rfl rfl rfl rfl rfl
    · exact Keeps.refl s
  · exact Keeps.refl s

theorem keeps_enterStore (s : State) (st : FarStore) : Keeps s (s.enterStore st) := Keeps.of_eq rfl rfl rfl rfl rfl rfl

theorem keeps_replayStore (s : State) (st : FarStore) (r : ReplayRef) (chips : List (BitVec 22)) :
    Keeps s (s.replayStore st r chips) := by
  unfold replayStore
  refine Keeps.trans (t := { s with replays := s.replays ++ [⟨r, st, chips, 0, []⟩] }) ?_ (Keeps.foldl _ (fun s chip => ?_) _ _)
  · exact Keeps.of_eq rfl rfl rfl rfl rfl rfl
  · split
    · exact keeps_enterStore ..
    · exact keeps_sendPacket ..

theorem keeps_redlvAbandoned (s : State) (w : List Word) (x : Route) (r : ReplayRef) :
    Keeps s (s.redlvAbandoned w x r).2.2 := by
  simp only [redlvAbandoned]
  split
  · exact Keeps.refl s
  · split
    · dsimp only
      split
      · exact keeps_clearHold ..
      · exact Keeps.refl s
    · split
      · split
        · exact Keeps.refl s
        · split
          · exact Keeps.refl s
          · exact keeps_replayStore ..
      · have h := keeps_recordMsgOf s w
        split <;> rename_i e <;> rw [e] at h
        · exact h
        · exact h.trans (keeps_gateway ..)

theorem keeps_redlvStore (s : State) (w : List Word) (r : ReplayRef) : Keeps s (s.redlvStore w r).2.2 := by
  have hn : ∀ (l : List Nat) (pid tag : BitVec 16),
      Keeps s (l.foldl (fun (s : State) k => s.noteTables pid tag (some k) none) s) :=
    fun l pid tag => Keeps.foldl _ (fun _ _ => keeps_noteTables ..) l s
  unfold redlvStore
  extract_lets g pid tag
  split
  · exact Keeps.refl s
  · split
    · exact Keeps.refl s
    · extract_lets ranks t chips
      have h : Keeps s t := hn ..
      clear_value t
      split
      · exact h
      · exact h.trans (keeps_replayStore ..)

theorem keeps_redlvOutcome (s : State) (ep : Option (Resolved × Bool)) (w : List Word) (p : ReplayRef) :
    Keeps s (s.redlvOutcome ep w p).2.2 := by
  have hm : ∀ (f : Msg → Msg) (x : State × Resolved), Keeps s x.1 →
      Keeps s (match x.1.recordMsgOf w, x.2 with
        | (none, s), _ => ((3, false, s) : Nat × Bool × State)
        | (some _, _), .dead => (8, false, x.1)
        | (some m, s), r => (0, false, s.send ((f m).to s.chip r))).2.2 := by
    intro f x hx
    have h := hx.trans (keeps_recordMsgOf x.1 w)
    generalize x.1.recordMsgOf w = y at h ⊢
    obtain ⟨m, u⟩ := y
    cases m with
    | none => exact h
    | some m =>
      generalize x.2 = r
      cases r with
      | dead => exact hx
      | here c k => exact h.trans (keeps_send ..)
      | far c l => exact h.trans (keeps_send ..)
  simp only [redlvOutcome]
  split
  · exact keeps_redlvAbandoned ..
  · split
    · exact keeps_redlvStore ..
    · split
      · split
        · exact Keeps.refl s
        · exact hm _ (s, _) (Keeps.refl s)
      · split
        · exact hm _ _ (keeps_lookUp ..)
        · split
          · exact hm _ _ (keeps_lookUp ..)
          · exact Keeps.refl s

theorem keeps_readRecord (s : State) (core addr : Nat) : Keeps s (s.readRecord core addr).1 := by
  have h : ∀ (l : List Nat) (x : State × List Word × Bool),
      Keeps x.1 (l.foldl (fun (x : State × List Word × Bool) i =>
        ((x.1.readLocal core 0 unitNetwork (addr + 4 * i)).1,
         x.2.1 ++ [(x.1.readLocal core 0 unitNetwork (addr + 4 * i)).2.1],
         x.2.2 || (x.1.readLocal core 0 unitNetwork (addr + 4 * i)).2.2)) x).1 := by
    intro l
    induction l with
    | nil => exact fun x => Keeps.refl _
    | cons i r ih =>
      intro x
      refine Keeps.trans ?_ (ih _)
      exact keeps_readLocal ..
  exact h (List.range 26) (s, [], false)

theorem keeps_redlvAction (s : State) (r : RedlvReq) : Keeps s (s.redlvAction r) := by
  unfold redlvAction
  extract_lets core empty
  have he : ∀ v : State, Keeps v (empty v) := fun v => keeps_setLocalSide ..
  clear_value empty
  split
  · exact keeps_answerCore ..
  split
  · exact keeps_answerCore ..
  have h := keeps_readRecord s core r.addr
  generalize s.readRecord core r.addr = x at h ⊢
  obtain ⟨t, w, bad⟩ := x
  dsimp -zeta only at h ⊢
  extract_lets w4 ref pid rank u v
  have ha : ∀ (u : State) (l : List Word), Keeps s u → Keeps s (u.answerCore r.by_ r.hw l) :=
    fun u l k => k.trans (keeps_answerCore ..)
  split
  · exact ha _ _ h
  split
  · exact ha _ _ h
  split
  · exact ha _ _ h
  split
  · exact ha _ _ h
  have hu : Keeps s u := by
    dsimp only [u]
    split
    · exact h.trans (keeps_noteTables ..)
    · exact h
  have hv : Keeps s v := by
    have k := hu.trans (keeps_redlvOutcome u r.ep w ref)
    dsimp only [v]
    split
    · exact k.trans (he _)
    · exact k
  clear_value v
  split
  · exact ha _ _ hu
  · split
    · exact (hu.trans (he u)).trans (keeps_gateway ..)
    · split
      · exact hv
      · exact ha _ _ hv

theorem keeps_decisionAction (s : State) (r : DecisionReq) : Keeps s (s.decisionAction r) := by
  unfold decisionAction
  extract_lets answer d t
  have ht : Keeps s t := keeps_noteTables ..
  clear_value t
  have hb : ∀ (n : Nat) (u : State), Keeps u (answer n u) := by
    intro n u
    dsimp only [answer]
    split
    · exact Keeps.refl u
    · exact keeps_answerTo ..
  clear_value answer
  refine ht.trans ?_
  split
  · exact hb 2 t
  · split
    · exact hb 1 t
    · split
      · exact Keeps.of_eq rfl rfl rfl rfl rfl rfl
      · exact keeps_gateway ..

end State

end Sys2Proof.Machine
end

