-- ==== Sys2Proof/Laws/Release.lean ====
section
/-! SUPPORT. Sys2Proof/Laws/Release.lean: what a release, a seal and a pending STEP leave alone: no register of any context
changes, and memories keep their canonical form; handing on changes no byte of memory, so that what changes there is what the
stores of the context change, which perform first (R130). -/

namespace Sys2Proof.Machine

/-- The registers of a context that no load writes late, and its port queues. -/
def Ctx.still (x : Ctx) : Vector Word 8 × Vector (BitVec 16) 8 × BitVec 5 × Word × Vector (List Word) 4 × Vector Nat 4 :=
  (x.pa, x.ps, x.fflags, x.chi, x.inq, x.outq)

/-- The registers that loads write, and the loads of a context that have not performed (R129). -/
def Ctx.loaded (x : Ctx) : Vector Word 16 × Word × List LateLoad := (x.g, x.lk, x.lateLoads)

/-- What a seal leaves of an activation. -/
def Act.still (a : Act) : Nat × Msg × Nat × Nat × List ReadMark × Bool × List LineData :=
  (a.pc, a.trig, a.loaded, a.deadline, a.reads, a.ending, a.sync)

/-- From s to t no register, but what loads write that have issued before, no port queue, no port word and no cursor changes, no
activation starts, stops or opens its prefix, and memories keep their canonical form. -/
structure Still (s t : State) : Prop where
  regs : ∀ core c, (t.ctx core c).still = (s.ctx core c).still
  loads : ∀ core c, (s.ctx core c).lateLoads = [] → (t.ctx core c).loaded = (s.ctx core c).loaded
  acts : ∀ core c, (t.act core c).map Act.still = (s.act core c).map Act.still
  shut : ∀ core c, s.isOpen core c = false → t.isOpen core c = false
  cur : t.cur = s.cur
  words : t.portWords = s.portWords
  wf : (∀ p, (s.mem p).wf) → ∀ p, (t.mem p).wf

/-- Nor does a load perform or a byte of memory change. -/
structure Calm (s t : State) : Prop extends Still s t where
  same : ∀ core c, (t.ctx core c).loaded = (s.ctx core c).loaded
  bytes : ∀ p a, (t.mem p).byte a = (s.mem p).byte a

namespace Still

theorem refl (s : State) : Still s s := ⟨fun _ _ => rfl, fun _ _ _ => rfl, fun _ _ => rfl, fun _ _ => id, rfl, rfl, id⟩

theorem trans {s t u : State} (h : Still s t) (k : Still t u) : Still s u :=
  ⟨fun a b => (k.regs a b).trans (h.regs a b),
   fun a b e =>
    have x := h.loads a b e
    (k.loads a b ((congrArg (fun y => y.2.2) x).trans e)).trans x,
   fun a b => (k.acts a b).trans (h.acts a b),
   fun a b e => k.shut a b (h.shut a b e), k.cur.trans h.cur, k.words.trans h.words, fun w => k.wf (h.wf w)⟩

/-- A write of a memory that keeps its form. -/
theorem updMem (s : State) (p : MemPlace) (f : Mem → Mem) (hw : ∀ m, m.wf → (f m).wf) : Still s (s.updMem p f) := by
  have hc : ∀ core c, (s.updMem p f).ctx core c = s.ctx core c := by
    intro core c
    simp only [State.ctx, State.updMem_ctxs]
  refine ⟨fun a b => by rw [hc], fun a b _ => by rw [hc], fun a b => by simp only [State.act, hc],
    fun a b e => by simpa only [State.isOpen, State.act, hc] using e, State.updMem_cur .., State.updMem_portWords .., fun w q => ?_⟩
  rw [State.mem_updMem]
  split
  · exact hw _ (w _)
  · exact w q

end Still

namespace Calm

theorem refl (s : State) : Calm s s := ⟨Still.refl s, fun _ _ => rfl, fun _ _ => rfl⟩

theorem trans {s t u : State} (h : Calm s t) (k : Calm t u) : Calm s u :=
  ⟨h.toStill.trans k.toStill, fun a b => (k.same a b).trans (h.same a b), fun p a => (k.bytes p a).trans (h.bytes p a)⟩

theorem of_keeps {s t : State} (h : Keeps s t) : Calm s t := by
  have hc : ∀ core c, t.ctx core c = s.ctx core c := by
    intro core c
    simp only [State.ctx, h.ctxs]
  exact ⟨⟨fun a b => by rw [hc], fun a b _ => by rw [hc], fun a b => by simp only [State.act, hc],
    fun a b e => by simpa only [State.isOpen, State.act, hc] using e, h.cur, h.words, h.wf⟩, fun a b => by rw [hc], h.bytes⟩

theorem updCtx (s : State) (core c : Nat) (f : Ctx → Ctx) (h : (f (s.ctx core c)).still = (s.ctx core c).still)
    (l : (f (s.ctx core c)).loaded = (s.ctx core c).loaded)
    (k : (f (s.ctx core c)).act.map Act.still = (s.ctx core c).act.map Act.still)
    (o : (s.ctx core c).act.elim false Act.open_ = false → (f (s.ctx core c)).act.elim false Act.open_ = false) :
    Calm s (s.updCtx core c f) := by
  have hx : ∀ a b, 8 * a + b = 8 * core + c → s.ctx a b = s.ctx core c := by
    intro a b e
    simp only [State.ctx, e]
  have hl : ∀ a b, ((s.updCtx core c f).ctx a b).loaded = (s.ctx a b).loaded := by
    intro a b
    rw [State.ctx_updCtx]
    split
    · rw [l, hx a b ‹_›]
    · rfl
  refine ⟨⟨fun a b => ?_, fun a b _ => hl a b, fun a b => ?_, fun a b => ?_, rfl, rfl, fun w p => ?_⟩, hl, fun p _ => ?_⟩
  · rw [State.ctx_updCtx]
    split
    · rw [h, hx a b ‹_›]
    · rfl
  · simp only [State.act, State.ctx_updCtx]
    split
    · rw [k, hx a b ‹_›]
    · rfl
  · simp only [State.isOpen, State.act, State.ctx_updCtx]
    split
    · rw [hx a b ‹_›]
      exact o
    · exact id
  · have := w p
    cases p <;> exact this
  · cases p <;> rfl

theorem updAct (s : State) (core c : Nat) (f : Act → Act) (h : ∀ a, (f a).still = a.still)
    (o : ∀ a, a.open_ = false → (f a).open_ = false) : Calm s (s.updAct core c f) := by
  refine updCtx s core c _ rfl rfl ?_ ?_ <;> cases (s.ctx core c).act <;> simp_all

end Calm

namespace State

/-! ## Stores that perform (R127, R130) -/

theorem still_setLocalWord (s : State) (core a : Nat) (w : Word) : Still s (s.setLocalWord core a w) :=
  Still.updMem s _ _ fun m h => Mem.wf_setWord m _ _ h

theorem still_storeMasked (s : State) (core c unit addr : Nat) (mask v : Word) :
    Still s (s.storeMasked core c unit addr mask v) := by
  unfold storeMasked
  extract_lets a
  split
  · exact still_setLocalWord ..
  · exact (Calm.of_keeps (keeps_readLocal s core c unit a)).toStill.trans (still_setLocalWord ..)

/-- The value that the undo log takes of a word changes nothing (R32). -/
theorem calm_preImage (s : State) (core a : Nat) : Calm s (s.preImage core a).1 := by
  unfold preImage
  split
  · exact Calm.of_keeps (keeps_freeWord s)
  · exact Calm.refl s

/-- A word is stored and its old value logged. -/
theorem still_logWord (s : State) (core c a : Nat) (w old : Word) :
    Still s ((s.setLocalWord core a w).updAct core c fun x => { x with log := .word a old :: x.log }) :=
  (still_setLocalWord s core a w).trans
    (Calm.updAct _ core c (fun x => { x with log := .word a old :: x.log }) (fun _ => rfl) fun _ => id).toStill

theorem still_storeLogged (s : State) (core c unit addr : Nat) (mask v : Word) :
    Still s (s.storeLogged core c unit addr mask v) := by
  unfold storeLogged
  extract_lets a
  split
  · split
    · exact (calm_preImage s core a).toStill.trans (still_logWord ..)
    · exact (Calm.of_keeps (keeps_readLocal s core c unit a)).toStill.trans (still_logWord ..)
  · exact still_storeMasked ..

theorem still_performStore (s : State) (core c : Nat) (x : LateStore) : Still s (s.performStore core c x) := by
  unfold performStore
  split
  · exact (still_storeLogged s core c unitVector _ _ _).trans (Calm.of_keeps (keeps_setLocalSide ..)).toStill
  · exact still_storeLogged ..

/-- Stores that perform change no register. -/
theorem still_settleIf (s : State) (core c : Nat) (p : LateStore → Bool) : Still s (s.settleIf core c p) := by
  have hf : ∀ (l : List LateStore) (t : State), Still t (l.foldl (fun s x => s.performStore core c x) t) := by
    intro l
    induction l with
    | nil => exact Still.refl
    | cons x r ih => exact fun t => (still_performStore t core c x).trans (ih _)
  simp only [settleIf]
  split
  · refine Still.trans (Calm.updCtx s core c _ ?_ ?_ ?_ ?_).toStill (hf _ _)
    · rfl
    · rfl
    · rfl
    · exact id
  · exact Still.refl s

/-- From s to t loads of one context perform (R129): at most its registers g and lk and the list of its loads change. -/
structure Loaded (core c : Nat) (s t : State) : Prop where
  regs : ∀ a b, (t.ctx a b).still = (s.ctx a b).still
  other : ∀ a b, 8 * a + b ≠ 8 * core + c → (t.ctx a b).loaded = (s.ctx a b).loaded
  acts : ∀ a b, t.act a b = s.act a b
  cur : t.cur = s.cur
  words : t.portWords = s.portWords
  mems : ∀ p, t.mem p = s.mem p

theorem Loaded.trans {core c : Nat} {s t u : State} (h : Loaded core c s t) (k : Loaded core c t u) : Loaded core c s u :=
  ⟨fun a b => (k.regs a b).trans (h.regs a b), fun a b e => (k.other a b e).trans (h.other a b e),
   fun a b => (k.acts a b).trans (h.acts a b), k.cur.trans h.cur, k.words.trans h.words, fun p => (k.mems p).trans (h.mems p)⟩

theorem loaded_updCtx (s : State) (core c : Nat) (f : Ctx → Ctx) (h : ∀ x, (f x).still = x.still) (k : ∀ x, (f x).act = x.act) :
    Loaded core c s (s.updCtx core c f) := by
  have hx : ∀ a b, 8 * a + b = 8 * core + c → s.ctx a b = s.ctx core c := by
    intro a b e
    simp only [ctx, e]
  refine ⟨fun a b => ?_, fun a b e => ?_, fun a b => ?_, rfl, rfl, fun p => by cases p <;> rfl⟩
  · rw [ctx_updCtx]
    split
    · rw [h, hx a b ‹_›]
    · rfl
  · rw [ctx_updCtx, if_neg e]
  · simp only [act, ctx_updCtx]
    split
    · rw [k, hx a b ‹_›]
    · rfl

theorem loaded_performLoad (s : State) (core c : Nat) (x : LateLoad) : Loaded core c s (s.performLoad core c x) := by
  unfold performLoad setReg
  refine loaded_updCtx s core c _ (fun y => ?_) fun y => ?_ <;> cases x.dst <;> rfl

/-- Where no load has issued that has not performed, none performs. -/
theorem settleLoads_none (s : State) (core c : Nat) (p : LateLoad → Bool) (h : (s.ctx core c).lateLoads = []) :
    s.settleLoads core c p = s := by
  simp [settleLoads, h]

/-- Loads that perform change no memory, and of the context only registers that loads write (R129). -/
theorem loaded_settleLoads (s : State) (core c : Nat) (p : LateLoad → Bool) : Loaded core c s (s.settleLoads core c p) := by
  have hf : ∀ (l : List LateLoad) (t : State), Loaded core c s t →
      Loaded core c s (l.foldl (fun s x => s.performLoad core c x) t) := by
    intro l
    induction l with
    | nil => exact fun _ h => h
    | cons x r ih => exact fun t h => ih _ (h.trans (loaded_performLoad t core c x))
  simp only [settleLoads]
  split
  · exact hf _ _ (loaded_updCtx s core c _ (fun _ => rfl) fun _ => rfl)
  · exact ⟨fun _ _ => rfl, fun _ _ _ => rfl, fun _ _ => rfl, rfl, rfl, fun _ => rfl⟩

theorem still_settleLoads (s : State) (core c : Nat) (p : LateLoad → Bool) : Still s (s.settleLoads core c p) := by
  have h := loaded_settleLoads s core c p
  refine ⟨h.regs, fun a b e => ?_, fun a b => by rw [h.acts], fun a b e => by simpa only [isOpen, h.acts] using e, h.cur,
    h.words, fun w q => by rw [h.mems]; exact w q⟩
  by_cases hx : 8 * a + b = 8 * core + c
  · have hc : (s.ctx core c).lateLoads = [] := by
      simpa only [ctx, hx] using e
    rw [settleLoads_none s core c p hc]
  · exact h.other a b hx

theorem still_flush (s : State) (core c : Nat) : Still s (s.flush core c) :=
  (still_settleLoads ..).trans (still_settleIf ..)

/-- Without stores and loads that have yet to perform nothing is done. -/
theorem flush_none (s : State) (core c : Nat) (h : (s.ctx core c).lateStores = []) (k : (s.ctx core c).lateLoads = []) :
    s.flush core c = s := by
  simp [flush, settleIf, settleLoads, h, k]

/-- Words read ahead that count no more change nothing else (R130). -/
theorem calm_dropViews (s : State) (core c : Nat) (p : NearView → Bool) : Calm s (s.dropViews core c p) := by
  unfold dropViews
  split
  · exact Calm.updCtx s core c _ rfl rfl rfl id
  · exact Calm.refl s

theorem calm_acquire (s : State) (core c : Nat) : Calm s (s.acquire core c) := calm_dropViews ..

theorem calm_waitInLine (s : State) (core c : Nat) (b : Buffered) : Calm s (s.waitInLine core c b) := by
  refine Calm.of_keeps ?_
  unfold waitInLine
  extract_lets cl
  split
  · exact Keeps.updCluster s cl _ (by split <;> rfl)
  · exact Keeps.updCluster s cl _ (by split <;> rfl)
  · exact Keeps.refl s

theorem keeps_mapwImage (s : State) (r : MapwReq) : Keeps s (s.mapwImage r).1 := by
  unfold mapwImage
  extract_lets core op rd x n
  have hr : ∀ x i, Keeps x.1 (rd x i).1 := by
    intro x i
    simp only [rd]
    split
    · exact Keeps.refl _
    · exact keeps_readLocal ..
  clear_value rd n
  have h : ∀ (l : List Nat) (x : State × Option (List Word)), Keeps x.1 (l.foldl rd x).1 := by
    intro l
    induction l with
    | nil => exact fun x => Keeps.refl _
    | cons i r ih => exact fun x => (hr x i).trans (ih _)
  exact (h [0, 1] (s, some [])).trans (h _ _)

/-- Handing one entry on. -/
theorem keeps_handOn (s t : State) (core c : Nat) (b : Buffered) (h : s.handOn core c b = some t) : Keeps s t := by
  unfold handOn at h
  extract_lets cl at h
  split at h
  · cases h; exact keeps_sendFrom ..
  · cases h; exact keeps_multicast ..
  · rename_i r
    have k := keeps_mapwImage s r
    cases h
    exact k.trans (Keeps.of_eq rfl rfl rfl rfl rfl rfl)
  · cases h; exact keeps_redlvAction ..
  · cases h; exact keeps_decisionAction ..
  · split at h
    · cases h
      refine Keeps.trans ?_ (keeps_askLeave ..)
      exact Keeps.updCluster s cl (fun x => { x with mxq := _, mxWait := _ }) rfl
    · cases h
  · split at h
    · cases h
      refine Keeps.trans ?_ (keeps_cpEnter ..)
      exact Keeps.updCluster s cl (fun x => { x with cpWait := _ }) rfl
    · cases h

/-- Handing entries on changes no register and no byte of memory (R30). -/
theorem calm_handList (s : State) (core c : Nat) (l : List Buffered) : Calm s (s.handList core c l).1 := by
  induction l generalizing s with
  | nil => exact Calm.refl s
  | cons b r ih =>
    unfold handList
    split
    · rename_i t e
      exact (Calm.of_keeps (keeps_handOn s t core c b e)).trans (ih t)
    · exact calm_waitInLine ..

theorem calm_handAll (s : State) (core c : Nat) (l : List Buffered) : Calm s (s.handAll core c l) := by
  simp only [handAll]
  exact (calm_handList s core c l).trans (Calm.updCtx _ core c (fun x => { x with handing := _ }) rfl rfl rfl id)

theorem keeps_releaseBegun (s : State) (core c : Nat) : Keeps s (s.releaseBegun core c) :=
  Keeps.updCore s core (fun k => { k with vq := k.vq.map fun e => if e.ctx = c then { e with after := e.after - 1 } else e }) rfl

/-- A release that waits no longer leaves the line. -/
theorem calm_nextRelease (s : State) (core c : Nat) (r : List (List Buffered)) :
    Calm s ((s.updCtx core c fun x => { x with waiting := r }).releaseBegun core c) :=
  (Calm.updCtx s core c (fun x => { x with waiting := r }) rfl rfl rfl id).trans (Calm.of_keeps (keeps_releaseBegun ..))

/-- Releases that go on change no register; what of memory changes the stores of the context change, which perform first
(R130). -/
theorem still_resume (s : State) (core c n : Nat) : Still s (s.resume core c n) := by
  induction n generalizing s with
  | zero => exact Still.refl s
  | succ n ih =>
    simp only [resume]
    split
    · split
      · exact (calm_handAll s core c _).toStill.trans (ih _)
      · exact (calm_handAll s core c _).toStill
    · split
      · exact Still.refl s
      · split
        · exact Still.refl s
        · split
          · exact (still_flush s core c).trans ((calm_nextRelease _ core c _).toStill.trans (ih _))
          split
          · exact (still_flush s core c).trans (calm_waitInLine ..).toStill
          · rename_i t e
            refine (still_flush s core c).trans ?_
            refine (Calm.of_keeps (keeps_handOn _ t core c _ e)).toStill.trans ?_
            exact ((calm_nextRelease t core c _).trans (calm_handAll ..)).toStill.trans (ih _)

theorem calm_queueRelease (s : State) (core c : Nat) : Calm s (s.queueRelease core c) :=
  Calm.updCtx s core c (fun x => { x with waiting := _, sbuf := [] }) rfl rfl rfl id

/-- A release changes no register (R30). -/
theorem still_release (s : State) (core c : Nat) : Still s (s.release core c) :=
  (calm_queueRelease s core c).toStill.trans (still_resume ..)

theorem keeps_takeStep (s : State) (core : Nat) : Keeps s (s.takeStep core) := by
  unfold takeStep
  extract_lets ready
  exact Keeps.updCore s core _ (by split <;> rfl)

theorem calm_drainSteps (s : State) (core c n : Nat) : Calm s (s.drainSteps core c n) := by
  induction n generalizing s with
  | zero => exact Calm.refl s
  | succ n ih =>
    unfold drainSteps
    split
    · refine Calm.trans ?_ (ih _)
      exact (Calm.of_keeps (keeps_takeStep s core)).trans (Calm.updAct _ _ _ _ (fun _ => rfl) fun _ => id)
    · exact Calm.refl s

theorem calm_goOn (s : State) (core c : Nat) : Calm s (s.goOn core c) := calm_drainSteps ..

/-- A seal changes no register (R33, R370). -/
theorem still_sealPrefix (s : State) (core c : Nat) : Still s (s.sealPrefix core c) := by
  unfold sealPrefix
  refine Still.trans ?_ (calm_goOn ..).toStill
  refine Still.trans ?_ (still_release ..)
  exact (still_flush s core c).trans
    (Calm.updAct _ core c (fun a => { a with open_ := false, log := [] }) (fun _ => rfl) fun _ _ => rfl).toStill

/-- After a seal the prefix is over (R33). -/
theorem isOpen_sealPrefix (s : State) (core c : Nat) : (s.sealPrefix core c).isOpen core c = false := by
  unfold sealPrefix
  refine (calm_goOn _ core c).shut core c ?_
  refine (still_release _ core c).shut core c ?_
  simp only [isOpen, act_updAct_same]
  cases (s.flush core c).act core c <;> rfl

end State

end Sys2Proof.Machine
end

