-- ==== Sys2Proof/Laws/Issue.lean ====
section
/-! SUPPORT. Sys2Proof/Laws/Issue.lean: what the issue of an instruction does when nothing holds it back: its body runs
on its operands. One law for each way of ending the prefix. -/

namespace Sys2Proof.Machine

/-- A field none of whose registers brought a fault has a value that does not depend on the marks. -/
theorem State.peek_clean (s : State) (core c : Nat) (bad : List Reg) (o : Opd)
    (h : ∀ r ∈ o.regs, r ∉ bad) : s.peek core c bad o = s.peek core c [] o := by
  cases o with
  | none => rfl
  | r x =>
    have hx : x ∉ bad := h x (by simp [Opd.regs])
    cases x <;> simp_all [State.peek]
  | p x =>
    have : (Opd.p x).regs.any bad.contains = false := by
      simp only [List.any_eq_false, List.contains_iff_mem]
      exact h
    simp [State.peek, this]

/-- The operands of an instruction none of whose registers brought a fault. -/
theorem State.peeks_clean (s : State) (core c : Nat) (bad : List Reg) (f : Form)
    (h : ∀ r ∈ f.named, r ∉ bad) : s.peeks core c bad f = s.peeks core c [] f := by
  have hh : ∀ o : Opd, (∀ r ∈ o.regs, r ∈ f.named) → s.peek core c bad o = s.peek core c [] o :=
    fun o ho => s.peek_clean core c bad o fun r hr => h r (ho r hr)
  unfold State.peeks
  rw [hh f.a, hh f.b, hh f.e, hh f.d] <;> intro r hr <;> simp [Form.named, hr]

/-- Nothing that an attending instruction names brought a fault: its operands are its plain ones. -/
theorem peeks_attends (f : Form) (s : State) (hu : attends f s = true) :
    s.peeks s.cur.core s.cur.ctx ((s.faulted s.cur.core s.cur.ctx).flatMap fun m => m.regs.map .g) f = peeked f s := by
  simp only [attends, Bool.and_eq_true, List.all_eq_true, Bool.not_eq_true'] at hu
  obtain ⟨_, hf⟩ := hu
  refine s.peeks_clean _ _ _ _ fun r hr hb => ?_
  obtain ⟨m, hm, hb⟩ := List.mem_flatMap.mp hb
  obtain ⟨n, hn, rfl⟩ := List.mem_map.mp hb
  have := hf m hm n hn
  simp_all

/-- Without a read that brought a fault no delayed cause is raised. -/
@[simp] theorem delayed_nil (n : Nat) : delayed [] n = none := by
  simp [delayed, List.findSome?_eq_none_iff]

/-- The checks of steps 4 to 6 of R234, passed. -/
theorem issueChecks_pass (pl : Plan) (s : State) (hu : attends pl.form s = true)
    (he : pl.early s (peeked pl.form s) = none) :
    issueChecks pl s =
      if pl.sealsFirst then sealThen s fun s' => issueLate pl [] s' (peeked pl.form s)
      else issueLate pl [] s (peeked pl.form s) := by
  have hp := peeks_attends pl.form s hu
  simp only [attends, Bool.and_eq_true, List.all_eq_true, Bool.not_eq_true'] at hu
  have hn : ((s.faulted s.cur.core s.cur.ctx).filter fun m => m.regs.any fun r => pl.form.named.contains (.g r)) = [] := by
    simp only [List.filter_eq_nil_iff, List.any_eq_true, not_exists, not_and, Bool.not_eq_true]
    exact fun m hm r hr => hu.2 m hm r hr
  simp only [issueChecks, hp, he, hn, delayed_nil]

/-- The issue of an instruction that is not held back comes to its checks. -/
theorem issue_attends (pl : Plan) (s : State) (hu : attends pl.form s = true) : issue pl s = issueChecks pl s := by
  simp only [attends, Bool.and_eq_true, Bool.not_eq_true'] at hu
  obtain ⟨⟨⟨⟨ha, hb⟩, hw⟩, hs⟩, _⟩ := hu
  obtain ⟨a, ha⟩ := Option.isSome_iff_exists.mp ha
  simp [issue, ha, hb, hw, hs]

theorem unheld_attends {f : Form} {s : State} (h : unheld f s = true) : attends f s = true := by
  simp only [unheld, Bool.and_eq_true] at h
  exact h.1

/-- A cause of the early checks of an instruction is raised at once (R234). -/
theorem issue_early (pl : Plan) (s : State) (t : TrapInfo) (hu : attends pl.form s = true)
    (he : pl.early s (peeked pl.form s) = some t) : issue pl s = s.raise t := by
  rw [issue_attends pl s hu]
  simp only [issueChecks, peeks_attends pl.form s hu, he]

/-- The pops, the later checks and the checker stage, passed. -/
theorem issuePops_pass (pl : Plan) (u : State) (hm : (((u.takes u.cur.core u.cur.ctx pl.form).2.core
      (u.takes u.cur.core u.cur.ctx pl.form).2.cur.core).mism) = 0)
    (he : pl.early (u.takes u.cur.core u.cur.ctx pl.form).2 (u.takes u.cur.core u.cur.ctx pl.form).1 = none)
    (hl : pl.late (u.takes u.cur.core u.cur.ctx pl.form).2 (u.takes u.cur.core u.cur.ctx pl.form).1 = none) :
    issuePops pl u = runBody pl (u.takes u.cur.core u.cur.ctx pl.form).2 (u.takes u.cur.core u.cur.ctx pl.form).1 := by
  simp only [issuePops, he, hl, Option.or_none, checkStage, hm, decide_true, Bool.true_or, if_true]

/-! ## Pops -/

theorem State.popPort_cur (s : State) (core c : Nat) (d : Dir) : (s.popPort core c d).2.cur = s.cur := by
  have h := (s.calm_acquire core c).cur
  unfold State.popPort
  generalize s.acquire core c = t at h ⊢
  unfold State.popQueue
  split
  · exact h
  · dsimp only
    split <;> exact h

/-- A pop moves neither the issuing context nor where its instruction stands. -/
theorem State.take_cur (s : State) (core c : Nat) (o : Opd) :
    (s.take core c o).2.cur = { s.cur with popped := (s.take core c o).2.cur.popped } := by
  unfold State.take
  split
  · rfl
  · simp only [State.popPort_cur]
  · rfl
  · rfl

theorem State.takes_cur (s : State) (core c : Nat) (f : Form) :
    (s.takes core c f).2.cur = { s.cur with popped := (s.takes core c f).2.cur.popped } := by
  simp only [State.takes]
  rw [State.take_cur, State.take_cur, State.take_cur, State.take_cur]

/-- The state in which an instruction reads its operands has the cursor of the state before. -/
theorem entered_cur (must : Bool) (s : State) : (entered must s).cur = s.cur := by
  unfold entered
  split
  · exact (s.still_sealPrefix _ _).cur
  · rfl

theorem operands_cur (must : Bool) (f : Form) (s : State) :
    (operands must f s).2.cur = { s.cur with popped := (operands must f s).2.cur.popped } := by
  unfold operands
  rw [State.takes_cur, entered_cur]

/-! ## The issue -/

/-- From the waits of an instruction on: it is ready, its ports are, and no check of a popped word fails. -/
theorem issueWait_runs (pl : Plan) (must : Bool) (s : State) (v : Vals) (h : issues must pl.form s = true)
    (hr : pl.ready (entered must s) v = true)
    (hn : (pl.full (entered must s) && (entered must s).releaseWaits (entered must s).cur.core (entered must s).cur.ctx) = false)
    (he : pl.early (operands must pl.form s).2 (operands must pl.form s).1 = none)
    (hl : pl.late (operands must pl.form s).2 (operands must pl.form s).1 = none) :
    issueWait pl (entered must s) v = runBody pl (operands must pl.form s).2 (operands must pl.form s).1 := by
  simp only [issues, Bool.and_eq_true, Bool.not_eq_true', beq_iff_eq] at h
  obtain ⟨⟨⟨_, hp⟩, hd⟩, hm⟩ := h
  have hc := entered_cur must s
  rw [← hc] at hp hd
  have hw : pushWaits pl (entered must s) = false := by
    rw [pushWaits, Bool.and_or_distrib_right, hd, hn, Bool.or_false]
  simp only [issueWait, hr, hp, hw, Bool.and_self, Bool.not_false, if_true]
  unfold operands at he hl hm ⊢
  rw [← hc] at he hl hm ⊢
  refine issuePops_pass pl _ ?_ he hl
  rw [State.takes_cur]
  exact hm

/-- A seal that an instruction must make, and may. -/
theorem sealThen_pass (f : Form) (s : State) (k : State → Out)
    (h : issues (s.isOpen s.cur.core s.cur.ctx) f s = true) :
    sealThen s k = k (entered (s.isOpen s.cur.core s.cur.ctx) s) := by
  simp only [issues, Bool.and_eq_true, Bool.or_eq_true, Bool.not_eq_true'] at h
  obtain ⟨⟨⟨⟨_, hs⟩, _⟩, _⟩, _⟩ := h
  cases ho : s.isOpen s.cur.core s.cur.ctx with
  | false => simp [sealThen, ho, entered]
  | true =>
    have hs := hs.resolve_left (by simp [ho])
    have hb : (s.sealPrefix s.cur.core s.cur.ctx).stepBlocked s.cur.core s.cur.ctx = false := by
      simpa [entered, ho] using hs.2
    simp [sealThen, ho, hs.1, hb, entered]

theorem issues_unheld {must : Bool} {f : Form} {s : State} (h : issues must f s = true) : unheld f s = true := by
  simp only [issues, Bool.and_eq_true] at h
  exact h.1.1.1.1

theorem unheld_closed {f : Form} {s : State} (h : unheld f s = true) : s.closedPort s.cur.core s.cur.ctx f = none := by
  simp only [unheld, Bool.and_eq_true] at h
  simpa using h.2

/-- THE ISSUE OF AN INSTRUCTION THAT NOTHING HOLDS BACK: its body runs on its operands. must says whether it ends the
prefix first: when it names a port, needs the room, or finds the send buffer full. -/
theorem issue_runs (pl : Plan) (must : Bool) (s : State) (hf : pl.sealsFirst = false)
    (hmust : must = (s.isOpen s.cur.core s.cur.ctx &&
      (pl.seals s (peeked pl.form s) || pl.form.ports || (pl.full s && pl.form.pops.isEmpty))))
    (h : issues must pl.form s = true)
    (he : pl.early s (peeked pl.form s) = none) (hl : pl.late s (peeked pl.form s) = none)
    (hr : pl.ready (entered must s) (peeked pl.form s) = true)
    (hn : (pl.full (entered must s) && (entered must s).releaseWaits (entered must s).cur.core (entered must s).cur.ctx) = false)
    (he' : pl.early (operands must pl.form s).2 (operands must pl.form s).1 = none)
    (hl' : pl.late (operands must pl.form s).2 (operands must pl.form s).1 = none) :
    issue pl s = runBody pl (operands must pl.form s).2 (operands must pl.form s).1 := by
  have hu := issues_unheld h
  rw [issue_attends pl s (unheld_attends hu), issueChecks_pass pl s (unheld_attends hu) he, hf]
  simp only [issueLate, hl, unheld_closed hu, delayed_nil, Option.filter_none, Option.or_none, Bool.false_eq_true, if_false]
  have hw := issueWait_runs pl must s _ h hr hn he' hl'
  split
  · rename_i hs
    rw [hs, Bool.and_true] at hmust
    subst hmust
    rw [sealThen_pass pl.form s _ h]
    exact hw
  · rename_i hs
    have hm : must = false := by simp [hmust, hs]
    subst hm
    simpa [entered] using hw

/-- The same for an instruction without checks, waits and seals of its own. -/
theorem issue_plain (pl : Plan) (s : State) (hf : pl.sealsFirst = false) (he : pl.early = fun _ _ => none)
    (hl : pl.late = fun _ _ => none) (hs : pl.seals = fun _ _ => false) (hfu : pl.full = fun _ => false)
    (hr : pl.ready = fun _ _ => true) (h : issues (portSeal pl.form s) pl.form s = true) :
    issue pl s = runBody pl (operands (portSeal pl.form s) pl.form s).2 (operands (portSeal pl.form s) pl.form s).1 := by
  refine issue_runs pl (portSeal pl.form s) s hf ?_ h ?_ ?_ ?_ ?_ ?_ ?_
  · simp [hs, hfu, portSeal, Bool.and_comm]
  all_goals simp [he, hl, hr, hfu]

end Sys2Proof.Machine
end

