-- ==== Sys2Proof/Tests/Slice0.lean ====
section
/-! SUPPORT. Sys2Proof/Tests/Slice0.lean: the model's own tests. Decoding of words written out from the encodings of the
spec, refusals of ill-formed terms, witnesses of the premises of every statement, and single steps on small states,
with results calculated by hand from the rules named. -/

open Sys2Proof Sys2Proof.Machine

namespace Sys2Proof.Tests

-- The kernel evaluates the tests one after another: elaborated side by side, each waits for the earlier ones on a
-- thread of its own.
set_option Elab.async false

/-! ## Small states -/

/-- A value read from the next state of an answer. -/
def after {α : Type} (o : Out) (f : State → α) : Option α :=
  match o with
  | .next s => some (f s)
  | _ => none

/-- Global memory with the map record of PID 5 (R91): CTAB 0x1000, KTAB 0x2000, two ranks, supervisor core 7 of rank 0;
the chip table (rank 0 here, rank 1 on chip 66); the core table (LCORE 0 on core 0 and LCORE 7 on core 131, key 1). -/
def maps : Mem :=
  let m := (List.zipIdx [0x1000, 0, 0x2000, 0, 2, 7, 0, 3]).foldl (fun (m : Mem) p => m.setWord (0xC01FE00000 + 160 + 4 * p.2) (w32 p.1))
    State.reset.gmem
  (((m.setWord 0x2000 0x80000000).setWord 0x2004 0x80000042).setWord 0x1000 0x00010000).setWord 0x101C 0x00010083

/-- Cluster 0 is ON and runs a launch of PID 5: cores 0, 128 and 131 under key 1, step 0. -/
def placed : State :=
  let s := ({ State.reset with gmem := maps, live := [5] } : State).updCluster 0 fun x => { x with
    power := .on, placed := some (0, 0) }
  let k (l : BitVec 16) (x : Core) : Core := { x with lcore := l, pid := 5, pkey := 1, svcore := 7, joined := some 0, q := 1 }
  ((s.updCore 0 (k 0)).updCore 128 (k 4)).updCore 131 (k 7)

/-- An activation at parcel 10, in its prefix or past it. -/
def actAt (openPrefix : Bool) : Act := ⟨10, Msg.blank, 0x100000, 0x100000, openPrefix, [], 0, [], false, [], none⟩

/-- Context c of core 0 runs, past its prefix unless it is said to be in it, and an instruction of one parcel issues. -/
def runsIn (openPrefix : Bool) (c : Nat) : State :=
  { placed.updCtx 0 c fun x => { x with act := some (actAt openPrefix) } with cur := ⟨0, c, 10, 11, 0, 0, [], false⟩ }

/-- User context 1, past its prefix. -/
abbrev user : State := runsIn false 1
/-- User context 1, in its prefix. -/
abbrev fresh : State := runsIn true 1
/-- Context 7, past its prefix. -/
abbrev sup : State := runsIn false 7

/-- Registers of context 1 of core 0. -/
def withG (s : State) (l : List (Fin 16 × Word)) : State :=
  s.updCtx 0 s.cur.ctx fun x => { x with g := l.foldl (fun g p => g.set p.1.val p.2) x.g }

/-- A state in a turn that defers accesses (assumption 12). -/
def inLate (s : State) : State := { s with cur := { s.cur with late := true } }

/-- The value of g1 after an instruction. -/
def g1 (i : Instr) (s : State) : Option Word := after (exec i s) fun t => (t.ctx 0 t.cur.ctx).g[1]

/-! ## Decoding (R274 to R285): parcels written out from the encodings -/

/-- Page 0: op × 2^9 + 64 d + 8 a + b; IMX 0xE000 + 11 bits; RGX 0xE800. SUB g1, g2, g3; MULHU g7, g6, g5; BR -1;
BNZ g3, +2; ADDI g1, g2, -1 (one IMX of ones); SEND g2:g3, g4, 2; LDW g1, [p0 + 4]; STD g2:g3, [p1]+. -/
theorem test_decode_page0 :
    decode [0x2253] = .ok (.sub (.g 1) (.g 2) (.g 3), 1) ∧ decode [0x35F5] = .ok (.mulhu (.g 7) (.g 6) (.g 5), 1) ∧
    decode [0x03FF] = .ok (.br (-1), 1) ∧ decode [0x0CC2] = .ok (.bnz (.g 3) 2, 1) ∧
    decode [0xE7FF, 0x6057] = .ok (.addi (.g 1) (.g 2) (-1), 2) ∧ decode [0x12A2] = .ok (.send (.even 1) (.g 4) 2, 1) ∧
    decode [0x8041] = .ok (.ldw (.g 1) ⟨0, false, 1⟩, 1) ∧ decode [0x948C] = .ok (.std (.even 1) ⟨1, true, 0⟩, 1) := by decide

/-- RGX widens a register number: ADD g9, g10, g11 is RGX DH 1, AH 1, BH 1 before 64 × 1 + 8 × 2 + 3 (R278); SMUL.sat
p2, p0, p1, g9 is 0xE809, 0xF8E0, 0xAA81 and SFMA.fp32 p2, p0, p1 is 0xF800, 0xAC81 (R380). -/
theorem test_decode_prefixes :
    decode [0xEAA0, 0x2053] = .ok (.add (.g 9) (.g 10) (.g 11), 2) ∧
    decode [0xE809, 0xF8E0, 0xAA81] = .ok (.smul 2 0 1 (.g 9) (.int true), 3) ∧
    decode [0xF800, 0xAC81] = .ok (.sfma 2 0 1 (.g 7) (.fp .rne), 2) ∧
    decode [0xE002, 0x6C50] = .ok (.srai (.g 1) (.g 2) 16, 2) := by decide

/-- Pages 1 and 2 after PGX 0xF080 and 0xF100: FSQRT g1, g2; FFMA g1, g2, g3; VADD v1, v2, v3; VSETL g2; VCMP with
condition LT in the E field of RGX. -/
theorem test_decode_float_and_vector :
    decode [0xF080, 0x0A50] = .ok (.fsqrt (.g 1) (.g 2) .rne, 2) ∧
    decode [0xF080, 0x0653] = .ok (.ffma (.g 1) (.g 2) (.g 3) .rne, 2) ∧
    decode [0xF100, 0x0053] = .ok (.vadd 1 2 3 ⟨false, .rne, false⟩, 2) ∧ decode [0xF100, 0x3610] = .ok (.vsetl (.g 2), 2) ∧
    decode [0xE801, 0xF100, 0x1653] = .ok (.vcmp 1 2 3 .lt false, 3) := by decide

/-- Pages 3 and 4 after PGX 0xF180 and 0xF200: GLD g1, g2:g3; GST g1, g2:g3; NADD g1, g2, g3; BARA g1, 3; STEPQ g2:g3, 2;
LAUNCH g2:g3, g4, g9 as R231's example has it; CSRR g1, 2; TRAP 5; SVSEND g2:g3, g4, 1. -/
theorem test_decode_system :
    decode [0xF180, 0x2050] = .ok (.gld (.g 1) (.even 1), 2) ∧ decode [0xF180, 0x2450] = .ok (.gst (.g 1) (.even 1) .zr, 2) ∧
    decode [0xF180, 0x4053] = .ok (.nadd (.g 1) (.g 2) (.g 3), 2) ∧ decode [0xF180, 0x6043] = .ok (.bara (.g 1) 3, 2) ∧
    decode [0xF180, 0x5482] = .ok (.stepq (.even 1) 2, 2) ∧
    decode [0xF180, 0xE809, 0x74A0] = .ok (.launch (.even 1) (.g 4) (.g 9), 3) ∧
    decode [0xF200, 0x0642] = .ok (.csrr (.g 1) 2, 2) ∧ decode [0xF200, 0x0005] = .ok (.trap 5, 2) ∧
    decode [0xF200, 0x20A1] = .ok (.svsend (.even 1) (.g 4) 1, 2) := by decide

/-- What R275 and its examples reject: an opcode that no page has, three IMX, a PGX of page 0, an IMX on ADD, a write of cc, an odd
pair, a register number from 16 to 23. -/
theorem test_decode_rejects :
    (decode [0xFFFF, 0xFFFF]).isOk = false ∧ (decode [0xE001, 0xE002, 0xE003, 0x7000]).isOk = false ∧
    (decode [0xF000, 0x0000]).isOk = false ∧ (decode [0xE000, 0x2001]).isOk = false ∧ (decode [0xEE00, 0x2180]).isOk = false ∧
    (decode [0x1262]).isOk = false ∧ (decode [0xE900, 0x2040]).isOk = false := by decide

/-- The bits of a row, as spec/opcode_table.json numbers them, through the decoder. -/
theorem test_nop_word : decodeTableWord 16 0 = some .nop ∧ decodeTableWord 32 0x0053F080 = some (.fadd (.g 1) (.g 2) (.g 3) .rne) := by
  decide

/-! ## Terms that no encoding has -/

/-- Registers that an instruction may not write: cc and bd anywhere, a port where R338, R404 or R332 forbids one. -/
theorem test_wf_refuses_registers :
    (Instr.add .cc (.g 1) (.g 2)).wf = false ∧ (Instr.geth .bd 0).wf = false ∧ (Instr.clz .bd (.g 1)).wf = false ∧
    (Instr.ldhi (.port .w) 1).wf = false ∧ (Instr.bfi (.port .w) (.g 1) 0).wf = false ∧ (Instr.lds (.port .n) ⟨0, false, 0⟩).wf = false ∧
    (Instr.gld .lk (.even 0)).wf = false ∧ (Instr.vmvg (.port .e) 0 (.g 1)).wf = false ∧ (Instr.bara .cc 0).wf = false ∧
    (Instr.barw (.port .s) 0).wf = false ∧ (Instr.bari (.port .s) 0).wf = false ∧ (Instr.pget .cc 0 false).wf = false ∧
    (Instr.fadd .cc (.g 1) (.g 2) .rne).wf = false ∧ (Instr.fmin .bd (.g 1) (.g 2)).wf = false ∧ (Instr.fclass .cc (.g 1)).wf = false ∧
    (Instr.nadd .cc (.g 1) (.g 2)).wf = false ∧ (Instr.pwrq .bd 0).wf = false ∧ (Instr.csrr .cc 4).wf = false ∧
    (Instr.vrsum (.g 3) 0 ⟨false, .rne, false⟩ true).wf = false ∧ (Instr.cycleRead .bd).wf = false ∧
    (Instr.ldw .cc ⟨0, false, 0⟩).wf = false ∧ (Instr.fsqrt .cc (.g 1) .rne).wf = false ∧ (Instr.fcvt .cc (.g 1) .rne false .i8 .i8).wf = false := by
  decide

/-- Immediates and offsets one beyond their ranges (R279). -/
theorem test_wf_refuses_immediates :
    (Instr.br (2 ^ 30)).wf = false ∧ (Instr.bz (.g 1) (-(2 ^ 27) - 1)).wf = false ∧ (Instr.addi (.g 1) (.g 1) (2 ^ 24)).wf = false ∧
    (Instr.shli (.g 1) (.g 1) 32).wf = false ∧ (Instr.bfx (.g 1) (.g 1) (31 + 32)).wf = false ∧ (Instr.bfi (.g 1) (.g 1) 1024).wf = false ∧
    (Instr.ldi (.g 1) (2 ^ 27)).wf = false ∧ (Instr.ldhi (.g 1) 65536).wf = false ∧ (Instr.ldw (.g 1) ⟨0, false, 2 ^ 23⟩).wf = false ∧
    (Instr.std (.even 0) ⟨0, false, 2 ^ 23⟩).wf = false ∧ (Instr.setf ⟨0, false, -(2 ^ 23) - 1⟩).wf = false ∧
    (Instr.stw (.g 0) ⟨0, false, 2 ^ 23⟩).wf = false ∧ (Instr.lds (.g 0) ⟨0, false, 2 ^ 23⟩).wf = false ∧
    (Instr.pstr 0 32768).wf = false ∧ (Instr.padd 0 (2 ^ 27)).wf = false ∧ (Instr.trap (2 ^ 31)).wf = false ∧ (Instr.brk (-1)).wf = false ∧
    (Instr.csrr (.g 1) (2 ^ 28)).wf = false ∧ (Instr.csrw (.g 1) (-1)).wf = false ∧ (Instr.vld 0 ⟨0, false, 2 ^ 22⟩ false .fp32).wf = false ∧
    (Instr.vgth 0 ⟨0, false, 1⟩ false 1 .fp32).wf = false ∧ (Instr.vsct 0 ⟨0, false, 2 ^ 11⟩ 1 .i8).wf = false := by decide

/-- Modifiers that a row does not take (R280): stochastic rounding outside conversions, a format without a 3-bit code. -/
theorem test_wf_refuses_modifiers :
    (Instr.sadd 0 1 2 (.g 7) (.fp .sr)).wf = false ∧ (Instr.fadd (.g 1) (.g 2) (.g 3) .sr).wf = false ∧
    (Instr.ftoi (.g 1) (.g 2) .sr false).wf = false ∧ (Instr.fsqrt (.g 1) (.g 2) .sr).wf = false ∧
    (Instr.fcvt (.g 1) (.g 2) .sr false .i16 .fp32).wf = false ∧ (Instr.vadd 0 1 2 ⟨false, .sr, false⟩).wf = false ∧
    (Instr.vcvt 0 1 .rne false .i4 .fp32).wf = false ∧ (Instr.vexp2 0 1 .sr false).wf = false ∧
    (Instr.vrmax (.g 1) 0 ⟨false, .sr, false⟩ false).wf = false ∧ (Instr.vst 0 ⟨0, false, 0⟩ .i16).wf = false ∧
    (Instr.vgth 0 ⟨0, false, 0⟩ false 1 .i4).wf = false := by decide

/-- DecodeInvertsEncode: well-formed terms at the ends of their ranges, and one that is another name of a CSR instruction. -/
theorem test_premises_DecodeInvertsEncode :
    (Instr.br 0).coded = true ∧ (Instr.vgth 7 ⟨7, true, -(2 ^ 11)⟩ true 7 .i8).coded = true ∧ (Instr.csrw .lk 0x121).coded = true ∧
    (Instr.br (-(2 ^ 30))).wf = true ∧ (Instr.br (2 ^ 30 - 1)).wf = true ∧ (Instr.add .lk .cc (.port .s)).wf = true ∧
    (Instr.srai (.g 0) .zr 31).wf = true ∧ (Instr.bfx (.g 15) (.g 0) 992).wf = true ∧
    (Instr.vgth 7 ⟨7, true, -(2 ^ 11)⟩ true 7 .i8).wf = true ∧ (Instr.trap (2 ^ 31 - 1)).wf = true ∧
    (Instr.fcvt .lk .bd .sr true .i8 .i4).wf = true ∧ (Instr.pqdataRead .zr).wf = true := by decide

/-! ## Witnesses of the premises: stepping, registers, ports -/

/-- StepRunsDecodedInstruction: context 1 of core 0 in a turn that defers stores and in one that does not; context 7 of the last
core at the last parcel and beyond it; a pending STEP past a SEAL; a stream; a context without an activation. -/
theorem test_premises_StepRunsDecodedInstruction :
    (∀ late : Bool,
      let s : State := { user with turns := [if late then .issueLate 0 1 else .issue 0 1] }
      let u : State := { turnStart (some (if late then .issueLate 0 1 else .issue 0 1)) s with turns := [] }
      hasTurn u 0 1 = true ∧ u.act 0 1 = some (actAt false) ∧ u.now < (actAt false).deadline ∧ u.stepBlocked 0 1 = false ∧
      u.streaming 0 1 = false ∧ decode (u.parcelsAt 0 10) = .ok (.nop, 1)) ∧
    (∀ beyond : Bool,
      let a : Act := { actAt true with pc := if beyond then 65536 else 65535 }
      let s : State := { (placed.updCluster 5119 fun x => { x with power := .on }).updCtx 40959 7 fun x => { x with act := some a } with
        turns := [.issue 40959 7] }
      let u : State := { turnStart (some (.issue 40959 7)) s with turns := [] }
      hasTurn u 40959 7 = true ∧ u.act 40959 7 = some a ∧ u.now < a.deadline ∧ u.stepBlocked 40959 7 = false ∧
      u.streaming 40959 7 = false ∧ (if beyond then 65536 ≤ a.pc else decode (u.parcelsAt 40959 a.pc) = .ok (.nop, 1))) ∧
    (let s : State := { (user.updAct 0 1 fun a => { a with steps := 1 }).updCore 0 fun k => { k with s := 1 } with turns := [.issue 0 1] }
     let u : State := { turnStart (some (.issue 0 1)) s with turns := [] }
     hasTurn u 0 1 = true ∧ u.stepBlocked 0 1 = true) ∧
    (let s : State := { user.updCore 0 fun k => { k with stream := some ⟨1, .sadd, 2, 0, 1, .int false, 0, 4, 0, 11, 0, 0, []⟩ } with
       turns := [.issue 0 1] }
     let u : State := { turnStart (some (.issue 0 1)) s with turns := [] }
     hasTurn u 0 1 = true ∧ u.stepBlocked 0 1 = false ∧ u.streaming 0 1 = true) ∧
    hasTurn { turnStart (some (.issue 0 2)) ({ user with turns := [.issue 0 2] } : State) with turns := [] } 0 2 = false := by decide +kernel

/-- StepRunsDecodedInstruction: parcels that decode to none: an IMX at parcel 65,535, five IMX at the end of the code store, six in a
row, five before an opcode parcel, and a lone parcel of no page. -/
theorem test_premises_UndecodableParcels :
    ∀ n : Fin 5,
      let pc := if n = 0 then 65535 else if n = 1 then 65531 else 10
      let s : State := { (user.updAct 0 1 fun a => { a with pc := pc }).updCluster 0 fun x => { x with
        code := if n = 4 then [(10, 0xFFFF)] else (List.range (if n = 3 then 5 else 6)).map fun i => (pc + i, 0xE001) } with turns := [.issue 0 1] }
      let u : State := { turnStart (some (.issue 0 1)) s with turns := [] }
      let ps := u.parcelsAt 0 pc
      let pre := ps.takeWhile fun p => decide (p.toNat / 2 ^ 13 = 7)
      hasTurn u 0 1 = true ∧ u.stepBlocked 0 1 = false ∧ u.streaming 0 1 = false ∧ (decode ps).isOk = false ∧
      ((ps.length ≤ 5 ∧ pre.length = ps.length) ↔ n.val < 2) ∧ ((ps.length = 6 ∧ 5 ≤ pre.length) ↔ n = 2 ∨ n = 3) ∧
      (n = 4 → pre.length < 5 ∧ pre.length < ps.length) := by decide +kernel

/-- RegisterWrite: a port with a neighbour, and one at the package edge; a port queue of four words. -/
theorem test_premises_RegisterWrite :
    neighbour user.cur.core .e = some 1 ∧ neighbour user.cur.core .n = some 128 ∧ neighbour user.cur.core .w = none ∧
    neighbour 40959 .n = none ∧ neighbour 40959 .w = some 40958 ∧
    ((user.updCtx 0 1 fun x => { x with inq := x.inq.set 0 [5, 6, 7, 8] }).ctx 0 1).inq[Dir.w.idx] = 5 :: 6 :: 7 :: 8 :: [] := by decide

/-- An issuer: context 1 of core 0. -/
def who : Issuer := ⟨0, 1, 0, 0, 5, 1, 0⟩
/-- A message for core 0 with its key, and messages for the host, the distributor and a core with another key. -/
def mail (dcore key : Nat) : Msg :=
  { Msg.blank with dcore := BitVec.ofNat 16 dcore, dkey := BitVec.ofNat 16 key, pid := 5, nw := 1, body := [9] }
/-- A matrix command of core 0. -/
def mxCmd (op : MxOp) (w : Word) : MxCmd := ⟨op, w, 0, 4, 0, 4, .rne, false, some 0x0500000C, 0, 1, who⟩
/-- A copy command of core 0 for line 0 of the scratchpad. -/
def copyCmd (op : CpOp) (w : Word) (a : BitVec 64) (hw : Option Word) : CpCmd :=
  ⟨3, op, w, a, 0x7FF80, 0, hw, who, 0, 0, 1, 0, 0, 0, [], [], 0, 0, none, true, none, 0, []⟩

/-- Entries of a send buffer that a release can hand on at once. -/
theorem test_released (s : State) (h : s.chip = 0) (hx : s.cluster 0 = placed.cluster 0) :
    released s 0 [.msg (mail 0 1), .matrix (mxCmd .cfg 0), .copy (copyCmd .fill 0 0 none)] := by
  refine ⟨?_, by rw [show clusterOf 0 = 0 by decide, hx]; decide +kernel⟩
  intro b hb
  simp only [List.mem_cons, List.not_mem_nil, or_false] at hb
  rcases hb with rfl | rfl | rfl
  · exact .inl ⟨_, rfl, h.symm⟩
  · exact .inr (.inl ⟨_, rfl⟩)
  · exact .inr (.inr ⟨_, rfl⟩)

/-- A context whose send buffer and stopped release hold a message and a command of each engine. -/
def sending (s : State) : State := s.updCtx 0 1 fun x => { x with
  handing := [.msg (mail 0 1)], sbuf := [.matrix (mxCmd .cfg 0), .copy (copyCmd .fill 0 0 none)] }

/-- CommitAndSeal: an activation; entries that the release hands on. -/
theorem test_premises_CommitAndSeal :
    (user.act user.cur.core user.cur.ctx).isSome = true ∧ (fresh.act 0 1).isSome = true ∧
    released ((sending fresh).flush 0 1) 0 (((sending fresh).ctx 0 1).handing ++ ((sending fresh).ctx 0 1).sbuf) :=
  ⟨by decide, by decide, test_released _ rfl (by decide +kernel)⟩

/-- A context whose send buffer holds a command, and a release that waits behind others (R139) a message and a command. -/
def sending2 (s : State) : State := (sending s).updCtx 0 1 fun x => { x with
  handing := [], waiting := [[.msg (mail 0 1), .matrix (mxCmd .cfg 0)]], sbuf := [.copy (copyCmd .fill 0 0 none)] }

/-- CommitAndSeal, ActivationEnds, Releases: releases that wait are handed on as well. -/
theorem test_premises_WaitingReleases :
    let l (s : State) : List Buffered := (s.ctx 0 1).handing ++ (s.ctx 0 1).waiting.flatten ++ (s.ctx 0 1).sbuf
    released ((sending2 fresh).flush 0 1) 0 (l (sending2 fresh)) ∧ (sending2 fresh).releaseWaits 0 1 = false ∧
    released (((sending2 user).commitIter 0 1).flush 0 1) 0 (l (sending2 user)) :=
  ⟨test_released _ rfl (by decide +kernel), by decide, test_released _ rfl (by decide +kernel)⟩

/-- Context 1 with three words in its inbound queue from the west. -/
def fed : State := user.updCtx 0 1 fun x => { x with inq := x.inq.set 0 [5, 6, 7] }

/-- FloatRounding: modes, finite words at both ends of their range, values of either sign, encodings of each kind of format. -/
theorem test_premises_FloatRounding :
    Rnd.rne ≠ .sr ∧ expField 0 ≠ 255 ∧ expField 0xFF7FFFFF ≠ 255 ∧ 0 < wordVal 0x3F800000 ∧ wordVal 0x80000001 ≠ 0 ∧
    (Fmt.e2m1.isInt = false ∧ Fmt.i8.isInt = true ∧ 255 < 2 ^ Fmt.i8.width) ∧
    0x7E % 2 ^ (Fmt.e4m3.width - 1) ≤ Fmt.e4m3.maxBits := by
  have h : fmtVal .fp32 (0x3F800000 : Word).toNat = 1 := by decide +kernel
  have g : fmtVal .fp32 (0x80000001 : Word).toNat ≠ 0 := by decide +kernel
  refine ⟨by decide, by decide, by decide, ?_, ?_, by decide, by decide⟩
  · rw [wordVal, h]; norm_num
  · rw [wordVal]; exact_mod_cast g

/-! ## Witnesses: instructions of the cores -/

/-- The forms of the integer and floating-point statements issue: registers alone, in the prefix and past it; and ports
with words in their queue, which are popped. -/
theorem test_premises_forms :
    (∀ s ∈ [user, fresh, sup],
      issuesPlain { a := .r (.g 2), b := .r (.g 3), dst := .r (.g 1) } s = true ∧ issuesPlain { a := .r .cc, dst := .r .lk } s = true ∧
      issuesPlain { a := .r (.g 2), b := .r (.g 3), d := .r (.g 1), dst := .r (.g 1) } s = true ∧
      issuesPlain { a := .r (.g 2), d := .r (.g 1), dst := .r (.g 1) } s = true ∧ issuesPlain { d := .r (.g 1), dst := .r (.g 1) } s = true ∧
      issuesPlain { dst := .r .zr } s = true ∧ issuesPlain { a := .r .zr, b := .r .lk } s = true ∧ issuesPlain {} s = true ∧
      issuesPlain { a := .r (.g 2), b := .r (.g 3), dst := .p (.even 0) } s = true ∧ issuesPlain { dst := .p .zr } s = true ∧
      issuesPlain { dst := .r .lk } s = true ∧ issuesPlain { a := .r (.g 2), dst := .p (.even 7) } s = true ∧
      issuesPlain { e := .r (.g 7) } s = true ∧ issuesPlain { d := .r .zr } s = true) ∧
    issuesPlain { a := .r (.port .w), b := .r (.port .w), dst := .r (.g 1) } fed = true ∧
    issuesPlain { a := .r (.port .w), dst := .r (.port .n) } fed = true ∧ issuesPlain { d := .r (.port .w) } fed = true := by decide

/-- ImmediateResults, SelectAndMoveResults: fields at their ends; the free iterative unit of IterativeUnitStarts; the free
stream unit of StreamsBegin. -/
theorem test_premises_units :
    ((entered (portSeal { a := .r (.g 2), b := .r (.g 3), dst := .r (.g 1) } user) user).core user.cur.core).iter = none ∧
    ((entered (portSeal { e := .r (.g 7) } fresh) fresh).core fresh.cur.core).stream = none ∧
    (operandsPlain { e := .r (.g 7) } user).1.we = 0 ∧ (operandsPlain { e := .r (.g 7) } (withG user [(7, 3)])).1.we ≠ 0 ∧
    issuesPlain { e := .r (.g 7) } (withG user [(7, 3)]) = true := by decide

/-- ClassOfAWord and NanOperands: NaN words of each kind; infinities, zeros, and the least and the greatest finite words beside them;
the integers where the clauses of FEXP2 meet; powers of two and a value between. -/
theorem test_premises_NanOperands :
    (expField 0x7FC00000 = 255 ∧ fracField 0x7FC00000 ≠ 0) ∧ (expField 0xFF800001 = 255 ∧ fracField 0xFF800001 ≠ 0) ∧
    (∀ neg : Bool, let w : Word := if neg then 0xFF800000 else 0x7F800000
      expField w = 255 ∧ fracField w = 0) ∧
    (∀ neg : Bool, let w : Word := if neg then 0x80000000 else 0
      expField w = 0 ∧ fracField w = 0) ∧
    (∀ neg : Bool, let w : Word := if neg then 0xFF7FFFFF else 1
      expField w ≠ 255 ∧ ¬(expField w = 0 ∧ fracField w = 0)) ∧
    issuesPlain { a := .r (.g 2), dst := .r .zr } user = true ∧ Rnd.rne ≠ .sr ∧
    fmtVal .fp32 (0xC3150000 : Word).toNat = -149 ∧ fmtVal .fp32 (0xC3160000 : Word).toNat = -150 ∧
    fmtVal .fp32 (0x42FE0000 : Word).toNat = 127 ∧ fmtVal .fp32 (0x43000000 : Word).toNat = 128 ∧
    fmtVal .fp32 (0x3F000000 : Word).toNat = 1 / 2 ∧ fmtVal .fp32 (0x3FC00000 : Word).toNat = 3 / 2 ∧
    (0 < fmtVal .fp32 (1 : Word).toNat ∧ fmtVal .fp32 (0x807FFFFF : Word).toNat < 0) := by decide +kernel

/-- BranchRules and JumpRules: targets inside at both ends and outside on both sides, taken and not taken. -/
theorem test_premises_BranchRules :
    let target (off : Int) : Int := (user.cur.pc : Int) + off
    (0 ≤ target (-10) ∧ target (-10) ≤ 65535) ∧ (0 ≤ target 65525 ∧ target 65525 ≤ 65535) ∧ ¬(0 ≤ target (-11)) ∧ ¬(target 65526 ≤ 65535) ∧
    (operandsPlain { d := .r (.g 1) } user).1.wd = 0 ∧ (operandsPlain { d := .r (.g 1) } (withG user [(1, 4)])).1.wd ≠ 0 ∧
    (operandsPlain { a := .r (.g 1) } (withG user [(1, 0xFFFF)])).1.wa.toNat < 65536 ∧
    65536 ≤ (operandsPlain { a := .r (.g 1) } (withG user [(1, 0x10000)])).1.wa.toNat := by decide

/-- A pointer p1 of context 1. -/
def withP (s : State) (a : Word) : State := s.updCtx 0 s.cur.ctx fun x => { x with pa := x.pa.set 1 a, ps := x.ps.set 1 4 }

/-- LoadResults: the first word of TCM, its last word, and the last double of the scratchpad; a full line for LDS. -/
theorem test_premises_LoadResults :
    loadable user 0 ((withP user 0).ea ⟨1, false, 0⟩ 4).toNat 4 = true ∧
    loadable user 0 ((withP user 0x5FFC).ea ⟨1, false, 0⟩ 4).toNat 4 = true ∧
    loadable user 0 ((withP user 0x17FFF0).ea ⟨1, true, 1⟩ 8).toNat 8 = true ∧
    loadable user 0 ((withP user 0x5FFF).ea ⟨1, false, 0⟩ 1).toNat 1 = true ∧
    (let s := user.setLocalSide 0 0x100080 ⟨true, false⟩
     s.isFull 0 0x1000FC = true ∧ unviewed (s.acquire 0 1) 0 1 0x1000FC = true ∧
     loadable (settledFor (s.acquire 0 1) 0 1 0x1000FC) 0 0x1000FC 4 = true) ∧
    (let s := user.updCtx 0 1 fun x => { x with lateStores := [⟨0x100004, 0xFFFFFFFF, 7, .scalar, false⟩], views := [⟨0x100008, 3, false⟩] }
     unviewed s 0 1 0x100000 = true ∧ unviewed s 0 1 0x100004 = true ∧ loadable (settledFor s 0 1 0x100000) 0 0x100000 4 = true ∧
     loadable (settledFor (settledFor s 0 1 0x100000) 0 1 0x100004) 0 0x100004 4 = true) ∧
    issuesPlain { dst := .p .zr } user = true := by decide +kernel

/-- StoreResults: a word, a halfword and a byte in the prefix with room in the log, and a pair at the end of TCM. -/
theorem test_premises_StoreResults :
    fresh.cur.late = false ∧ (∀ n ∈ [4, 2, 1],
      let s := withG (withP fresh 0x100004) [(2, 7)]
      let a := (s.ea ⟨1, false, 0⟩ n).toNat
      let f : Form := { d := .r (.g 2) }
      let must := s.isOpen 0 1 && (s.wordsFull 0 1 [a - a % 4] || f.ports)
      issues must f s = true ∧ a % n = 0 ∧ localOk a n = true ∧
      ((settledFor (operands must f s).2 0 1 a).mem (placeOf 0 a)).err (offsetOf (a - a % 4)) ≠ some .uncorrectable) ∧
    (let s := withP fresh 0x5FF8
     let a := (s.ea ⟨1, false, 0⟩ 8).toNat
     issues (s.isOpen 0 1 && s.wordsFull 0 1 [a, a + 4]) { d := .p (.even 1) } s = true ∧ a % 8 = 0 ∧ localOk a 8 = true) := by decide +kernel

/-- IssueTraps: a misaligned address; aligned ones just outside TCM and scratchpad; a closed link, pushed to and popped; a
poisoned line, full and not; a handler word with
bit 31; a call from an answer's activation; an endpoint that no core has. -/
theorem test_premises_IssueTraps :
    attends { dst := .r (.g 1) } (withP user 2) = true ∧ ((withP user 2).ea ⟨1, false, 0⟩ 4).toNat % 4 ≠ 0 ∧
    (∀ a ∈ [0x6000, 0xFFFFC, 0x180000], a % 4 = 0 ∧ localOk a 4 = false) ∧ attends { d := .p (.even 0) } (withP fresh 4) = true ∧
    (user.linkClosed 0 .e = true ∧ user.inCount 0 1 .e = 0 ∧ attends { dst := .r (.port .e) } user = true ∧
     attends { d := .r (.port .e) } user = true ∧ ({ d := .r (.port .e) } : Form).ports = true) ∧
    (let s := user.setLocalSide 0 0 ⟨true, true⟩
     localOk 4 4 = true ∧ s.isFull 0 4 = true ∧ unviewed (s.acquire 0 1) 0 1 4 = true ∧
     (settledFor (s.acquire 0 1) 0 1 4).poisoned 0 4 = true) ∧
    (let f : Form := { a := .r (.g 4), d := .p (.even 1), also := payRegs 8 }
     attends f user = true ∧ (withG user [(4, 0x80000000)]).regVal 0 1 (.g 4) = 0x80000000 ∧
     (user.endpoint (9, 0)).1 = .dead ∧ (user.endpoint (0, 2)).1 = .dead ∧ user.fromAnswer = false ∧
     (user.updAct 0 1 fun a => { a with trig := { a.trig with ans := true } }).fromAnswer = true) := by decide

/-- LineInstructions: lines at the ends of TCM and scratchpad, in the prefix. -/
theorem test_premises_LineInstructions :
    ∀ spad last : Bool,
      let s := withP fresh (if spad then (if last then 0x17FF80 else 0x100000) else if last then 0x5F80 else 0)
      let a := (s.ea ⟨1, false, 0⟩ 128).toNat
      let must := s.isOpen 0 1 && s.logFull 0 1 1
      a % 128 = 0 ∧ localOk a 128 = true ∧ issues must {} s = true ∧ (entered must s).releaseWaits 0 1 = false ∧
      issuesPlain { dst := .r (.g 1) } s = true := by decide +kernel

/-- An endpoint pair reaches a core, here or on chip 66, for a send with room and for one that makes room. -/
theorem test_reachable :
    (∀ full : Bool, reachable { a := .r (.g 4), d := .p (.even 1) }
      (if full then user.updCtx 0 1 fun x => { x with sbuf := List.replicate 16 (.msg (mail 0 1)) } else fresh) (7, 0)) ∧
    reachable {} user (3, 1) ∧ reachable {} user (0xFFFF, 0) ∧ reachable {} user (0xFFFE, 9) := by
  unfold reachable; decide +kernel

/-- SendsEnterTheBuffer: a place in the buffer, or a full one in the prefix and past it, a handler word, endpoints and a valid group; a trigger with a sender. -/
theorem test_premises_SendsEnterTheBuffer :
    (let f : Form := { a := .r (.g 4), d := .p (.even 1), also := payRegs 2 }
     ∀ s ∈ [withG user [(2, 7), (4, 0x0500000C)], withG fresh [(2, 7), (4, 0x00400000)]],
       sends f s = true ∧ (sendOperands f s).1.wa.getLsbD 31 = false ∧ s.fromAnswer = false ∧
       sends f (s.updCtx 0 1 fun x => { x with sbuf := List.replicate 16 (.msg (mail 0 1)) }) = true ∧
       (s.pairVal 0 s.cur.ctx (.even 1)).1 = 7) ∧
    (let s := user.updAct 0 1 fun a => { a with trig := { a.trig with score := 7, ans := true } }
     sends { a := .r (.g 4), also := payRegs 0 } s = true ∧ ∃ t, s.act s.cur.core s.cur.ctx = some t ∧ t.trig.score ≠ 0xFFFF) ∧
    (let s : State := { user with groups := Tab.set [] (4096 * 5 + 9) [0x00010005, 1, 0x20000000, 0] }
     sends { a := .r (.g 4), d := .p (.even 1), also := payRegs 0 } s = true ∧
     ∀ x ∈ checksIn { a := .r (.g 4), d := .p (.even 1), also := payRegs 0 } s, x.groupValid (x.core 0).pid 9 = true) := by
  refine ⟨by decide +kernel, ⟨by decide +kernel, _, rfl, by decide +kernel⟩, by decide +kernel⟩

/-- CommandMessages: LAUNCH to the distributor of rank 0 with an aligned record, TDEC and the atomics to LCORE 7. -/
theorem test_premises_CommandMessages :
    (let s := withG user [(2, 0x100), (3, 0x1FFFFF), (4, 0), (9, 0x00400001)]
     let f : Form := { a := .r (.g 4), e := .r (.g 9), d := .p (.even 1) }
     sends f s = true ∧ (sendOperands f s).1.we.getLsbD 31 = false ∧ (s.pairVal 0 1 (.even 1)).2.toNat < 2 ^ 21 ∧
     (s.pairVal 0 1 (.even 1)).1.toNat % 128 = 0) ∧
    (let s := withG user [(2, 7), (5, 1), (6, 0x5FFC)]
     let f : Form := { a := .r (.g 6), b := .r (.g 5), d := .p (.even 1) }
     let g : Form := { a := .r (.g 6), b := .p (.even 0), e := .r .zr, d := .p (.even 1) }
     sends f s = true ∧ (sendOperands f s).1.wb ≠ 0 ∧ (s.pairVal 0 1 (.even 1)).1.toNat ≠ 65535 ∧
     sends { f with e := .r .zr } s = true ∧ (sendOperands { f with e := .r .zr } s).1.wa.toNat % 4 = 0 ∧ sends g s = true) := by decide +kernel

/-- ActivationEnds: nothing outstanding, from a call's activation in the prefix and past it; entries that the release hands on. -/
theorem test_premises_ActivationEnds :
    ∀ s0 ∈ [user, fresh],
      let s := withG s0 [(2, 7), (4, 0x0500000C)]
      let f : Form := { a := .r (.g 4), d := .p (.even 1), also := (List.finRange 16).map .g ++ [.lk] }
      let u := (operandsPlain f s).2
      (∃ t, s.act 0 1 = some t ∧ t.ending = false ∧ t.steps = 0 ∧ t.reads = []) ∧
      ((s.core 0).vq.all fun e => e.ctx != 1) = true ∧ issuesPlain {} s = true ∧ issuesPlain f s = true ∧
      (operandsPlain f s).1.wa.getLsbD 31 = false ∧ s.fromAnswer = false ∧ s.pairVal 0 1 (.even 1) = (7, 0) ∧
      (∀ x ∈ [s, entered (portSeal f s) s, u], (x.endpoint (7, 0)).1 ≠ .dead) ∧
      ((entered (portSeal f s) s).core 0).iter = none := by
  intro s h
  rcases List.mem_cons.1 h with rfl | h
  · exact ⟨⟨_, rfl, by decide⟩, by decide +kernel⟩
  · rw [List.mem_singleton.1 h]; exact ⟨⟨_, rfl, by decide⟩, by decide +kernel⟩

theorem test_premises_Releases :
    released (((sending user).commitIter 0 1).flush 0 1) 0 (((sending user).ctx 0 1).handing ++ ((sending user).ctx 0 1).sbuf) :=
  test_released _ rfl (by decide +kernel)

/-- SealAndFence: no access outstanding; a vector load of the context that is queued; a far store of it that is not accepted. -/
theorem test_premises_SealAndFence :
    issuesPlain {} fresh = true ∧ fresh.releaseWaits 0 1 = false ∧ (∀ p ∈ fresh.pending, ¬(p.core = 0 ∧ p.ctx = 1)) ∧
    (let s := fresh.updCore 0 fun k => { k with vq := [⟨.vld 1 ⟨0, false, 0⟩ false .fp32, 1, 10, 16, 0, none, 0, 0, [], [], 0, none, false, [], []⟩] }
     issuesPlain {} s = true ∧ s.releaseWaits 0 1 = true) ∧
    (let s : State := { fresh with pending := [⟨0, 1, 5, 6, 0, some (0, 3, 0), [0], none, []⟩] }
     issuesPlain {} s = true ∧ ∃ p ∈ s.pending, p.core = 0 ∧ p.ctx = 1) := by decide +kernel

/-- TaskRecord: a record at the first and the last place of TCM, in the prefix, with 8 payload words and with none. -/
theorem test_premises_TaskRecord :
    ∀ last : Bool,
      let s := withG fresh [(2, if last then 0x5FD0 else 0), (4, 0x00400001), (5, 3)]
      let n : Fin 9 := if last then 0 else 8
      let f : Form := { a := .r (.g 4), e := .r (.g 5), d := .r (.g 2), also := payRegs n }
      let must := s.isOpen 0 1 && (s.wordsFull 0 1 (recordWords (peeked f s).wd.toNat) || f.ports)
      let v := (operands must f s).1
      issues must f s = true ∧ v.wa.getLsbD 31 = false ∧ v.wd.toNat % 16 = 0 ∧ v.wd.toNat ≤ 0x5FD0 := by decide +kernel

/-- NearAtomics: the first and the last word of the scratchpad, from an activation in its prefix. -/
theorem test_premises_NearAtomics :
    ∀ last : Bool,
      let s := withG fresh [(2, if last then 0x17FFFC else 0x100000), (3, 4)]
      let must := s.isOpen 0 1
      let f : Form := { a := .r (.g 2), b := .r (.g 3), dst := .r (.g 1) }
      let g : Form := { a := .r (.g 2), b := .p (.even 2), dst := .r (.g 1) }
      s.releaseWaits 0 1 = false ∧ (entered must s).releaseWaits 0 1 = false ∧ issues must f s = true ∧
      (entered must s).closedPort 0 1 f = none ∧ issues must g s = true ∧
      ((operands must f s).1.wa.toNat % 4 = 0 ∧ 0x100000 ≤ (operands must f s).1.wa.toNat ∧
       (operands must f s).1.wa.toNat < 0x180000 ∧
       loadable (((operands must f s).2.flush 0 1).acquire 0 1) 0 (operands must f s).1.wa.toNat 4 = true) := by decide +kernel

/-- StepRules: past the prefix with the last STEP of the quota and before it, and a core that may not step; in the prefix;
a pending STEP; a held step. -/
theorem test_premises_StepRules :
    (issuesPlain {} user = true ∧ user.isOpen 0 1 = false ∧ ((user.core 0).s.toNat : Int) - 1 ≤ (user.domain 5).c ∧
     (user.core 0).k + 1 = (user.core 0).q) ∧
    (let s := user.updCore 0 fun k => { k with q := 2 }
     (s.core 0).k + 1 ≠ (s.core 0).q ∧ issuesPlain {} s = true) ∧
    (let s := user.updCore 0 fun k => { k with s := 1 }
     (s.domain 5).c < ((s.core 0).s.toNat : Int) - 1 ∧ issuesPlain {} s = true ∧ s.pendingSteps 0 1 = 0) ∧
    fresh.isOpen 0 1 = true ∧
    (let s := fresh.updAct 0 1 fun a => { a with steps := 1 }
     0 < s.pendingSteps 0 1 ∧ issuesPlain {} s = true) ∧ issuesPlain { dst := .p (.even 1) } user = true ∧
    (let s := (user.updDomain 5 fun d => { d with phase := .held }).updCore 0 fun k => { k with s := 1 }
     (s.domain 5).phase = .held ∧ (s.domain 5).c + 2 = (s.core 0).s.toNat) := by decide +kernel

/-- Barriers: NEED of 0 and of 1; a generation just passed, the furthest that counts as passed, and the present one; one awaited
since an earlier turn; a release that waits. -/
theorem test_premises_Barriers :
    (barrier user 0).need = 0 ∧
    (let s := setBarrier user 15 ⟨0x80000000, 1, 0⟩
     let x := barrier s 15
     let g (w : Word) : Nat := (x.gen - (withG s [(2, w)]).regVal 0 1 (.g 2)).toNat
     (s.act 0 1 = some (actAt false) ∧ (actAt false).waitGen = none ∧
      (s.updAct 0 1 fun a => { a with waitGen := some 1 }).act 0 1 = some { actAt false with waitGen := some 1 }) ∧
     (let w := s.updCore 0 fun k => { k with vq := [⟨.vld 1 ⟨0, false, 0⟩ false .fp32, 1, 10, 16, 0, none, 0, 0, [], [], 0, none, false, [], []⟩] }
      issuesPlain { dst := .r (.g 1) } w = true ∧ w.releaseWaits 0 1 = true) ∧
     x.need ≠ 0 ∧ x.cnt + 1 = x.need ∧ s.releaseWaits 0 1 = false ∧ issuesPlain { dst := .r (.g 1) } s = true ∧ issuesPlain { d := .r (.g 2) } s = true ∧
     (1 ≤ g 0x7FFFFFFF ∧ g 0x7FFFFFFF ≤ 2 ^ 31 - 1) ∧ (1 ≤ g 1 ∧ g 1 ≤ 2 ^ 31 - 1) ∧ ¬(1 ≤ g 0x80000000) ∧ ¬(g 0 ≤ 2 ^ 31 - 1)) ∧
    (let g (w : Word) : Nat := ((withG user [(2, w)]).regVal 0 1 (.g 2)).toNat
     g 255 ≤ 255 ∧ 255 < g 256) := by decide +kernel

/-- Context 1 holds the vector slot. -/
def slotted : State := user.updCore 0 fun k => { k with vslot := some 1, vl := 16 }

/-- VectorIssue, VectorRegisterIssue and SlotAcquisition: with the slot and without; a lane of 63 and of 64; a length of 64 and
of 65; a free slot, one's own, and another's. -/
theorem test_premises_VectorIssue :
    (let i : Instr := .vadd 1 2 3 ⟨false, .rne, false⟩
     issuesPlain { also := vecRegs i } slotted = true ∧ (slotted.core 0).vslot = some slotted.cur.ctx ∧ (slotted.core 0).vq.length < 16 ∧
     (user.core 0).vslot ≠ some user.cur.ctx ∧ issuesPlain { also := vecRegs i } user = true ∧
     issuesPlain { also := vecRegs (.vrsum (.g 2) 1 ⟨false, .rne, false⟩ true) } slotted = true) ∧
    (let s (w : Word) : State := withG slotted [(4, w)]
     let x (w : Word) : Nat := (operandsPlain { a := .r (.g 4), also := vecRegs (.vsetl (.g 4)) } (s w)).1.wa.toNat
     (let f : Form := { a := .r (.g 4), also := vecRegs (.vsetl (.g 4)) }
      issuesPlain f (s 63) && issuesPlain f (s 64) && issuesPlain f (s 65)) = true ∧
     x 63 < 64 ∧ ¬(x 64 < 64) ∧ x 64 ≤ 64 ∧ ¬(x 65 ≤ 64)) ∧
    (issuesPlain {} user = true ∧ (user.core 0).vslot = none ∧ (user.core 0).vwait = []) ∧
    (let s := user.updCore 0 fun k => { k with vslot := some 2 }
     (s.core 0).vslot ≠ some s.cur.ctx ∧ (s.core 0).vslot ≠ none ∧ issuesPlain {} s = true) ∧
    (let s := user.updCore 0 fun k => { k with vwait := [1, 3] }
     (s.core 0).vwait.head? = some s.cur.ctx) := by decide +kernel

/-- VectorMemoryIssue: an array at the end of the scratchpad; full lines for the synchronising loads. -/
theorem test_premises_VectorMemoryIssue :
    let s := (withP slotted 0x17FFC0).setLocalSide 0 0x17FF80 ⟨true, false⟩
    let m : MemOp := ⟨1, true, 0⟩
    let ea := (s.ea m 4).toNat
    (s.core 0).vslot = some 1 ∧ (s.core 0).vq.length < 16 ∧ issues false {} s = true ∧ vecAccess s m .fp32 true = none ∧
    (∀ w ∈ vecReads s (.vld 1 m true .fp32) ea, s.isFull 0 (128 * (w / 128)) = true) ∧ s.wordsFull 0 1 (vstWords .fp32 ea 16) = false ∧
    vecAccess s m .fp32 false = none ∧ s.vecMemPending 0 1 = false ∧ indexReady s 2 = true ∧ (∀ w ∈ vecReads s (.vgth 1 m true 2 .fp32) ea, s.isFull 0 (128 * (w / 128)) = true) ∧
    s.logFull 0 1 (s.core 0).vl = false := by decide +kernel

/-- MatrixCommands: a row descriptor of pitch 16 rows of 128 bytes; the last tile and the last row in full; operands of K 16;
a quad base for FP64 outputs is not needed; a peer core on this chip. -/
theorem test_premises_MatrixCommands :
    let s := withG user [(2, 0x7FF00), (3, 0x00000010), (4, 0x0500000C), (5, 0x1F800000), (6, 0), (7, 0)]
    let pa : Word × Word := s.pairVal 0 1 (.even 1)
    let m := withG user [(2, 0), (3, 4), (4, 0x0500000C), (6, 0), (7, 4)]
    let fine (s : State) (f : Form) (bad : Vals → Bool) : Bool := sends f s && !(sendOperands f s).1.we.getLsbD 31 && !bad (sendOperands f s).1
    let with_ (w : Word) (d : Word × Word) : Vals := { a := some d, b := none, e := none, d := some (w, 0) }
    fine s { e := .r (.g 4), d := .r (.g 6) } (fun v => cfgBad v.wd) = true ∧
    fine s { a := .p (.even 1), e := .r (.g 4), d := .r (.g 6) } ldBad = true ∧
    fine s { a := .p (.even 1), e := .r (.g 4), d := .r (.g 6) } drBad = true ∧
    fine m { a := .p (.even 1), b := .p (.even 3), e := .r (.g 4), d := .r (.g 6) } mulBad = true ∧
    ldBad (with_ 0x1F800000 (0, 0x10)) = false ∧ ldBad (with_ 0x1F820000 (0, 0x10)) = true ∧ rowsExtentBad 0x00800000 pa = true := by
  decide +kernel

/-- The peer of MXDRA: LCORE 7 of rank 0 is a core of this chip; an endpoint without a core is none. -/
theorem test_premises_MatrixPeer :
    (∀ x ∈ [user, fresh], (drainPeer x (some (7, 0))).isSome = true ∧ (drainPeer x (some (9, 0))).isSome = false) ∧
    (let s := withG user [(2, 7), (3, 0), (4, 0), (6, 0)]
     let f : Form := { a := .p (.even 1), e := .r (.g 4), d := .r (.g 6) }
     let w := (sendOperands f s).1.wd
     sends f s = true ∧ (drainBad w || !(wOtype w == 0 || wOtype w == 6) || (wOtype w == 6 && decide (wScale w < 0))) = false ∧
     s.pairVal 0 1 (.even 1) = (7, 0) ∧
     ∀ x ∈ (sendOperands f s).2 :: checksIn f s, (drainPeer x (some (7, 0))).isSome = true) := by decide +kernel

/-- EngineQueries: selectors 0, 1, 2, 3 of MXQRY at the last tile; the credit and the waiting charge in range. -/
theorem test_premises_EngineQueries :
    (let s (w : Word) : State := withG user [(2, w)]
     let f : Form := { a := .r (.g 2), dst := .p (.even 2) }
     let q (w : Word) : Nat := (operandsPlain f (s w)).1.wa.toNat / 8
     (issuesPlain f (s 7) && issuesPlain f (s 15) && issuesPlain f (s 23) && issuesPlain f (s 24)) = true ∧ q 7 = 0 ∧ q 15 = 1 ∧ q 23 = 2 ∧ 3 ≤ q 24) ∧
    issuesPlain { dst := .r (.g 1) } user = true := by decide +kernel

/-- The credit of a die at reset is in range for PWRQ. -/
theorem test_premises_EngineCredit : user.credit 0 = 0 ∧ user.waitingCharge 0 = 0 ∧ (operandsPlain { dst := .r (.g 1) } user).2.credit 0 = 0 := by decide +kernel

/-- CopyCommands: the last line of the scratchpad, a global address at the top of the canonical range, an endpoint, a pattern. -/
theorem test_premises_CopyCommands :
    ∀ s0 ∈ [user, fresh],
      let s := withG s0 [(2, 0xFFFFFF80), (3, 0x1FFFFF), (4, 0x7FF80), (5, 0), (6, 7), (7, 0), (8, 0x0500000C), (9, 0)]
      let f : Form := { a := .p (.even 1), b := .p (.even 2), e := .r (.g 8), d := .r (.g 9) }
      let g : Form := { f with a := .p (.even 3) }
      let h : Form := { a := .r (.g 6), b := .p (.even 2), e := .r (.g 8), d := .r (.g 9) }
      (∀ far ∈ [false, true],
        let v := (sendOperandsAs far f s).1
        sendsAs far f s = true ∧ (s.pairVal 0 1 (.even 1)).2.toNat < 2 ^ 21 ∧
        (s.pairVal 0 1 (.even 1)).1.toNat % cpUnit v.wd = 0 ∧ v.we.getLsbD 31 = false) ∧
      (∀ op ∈ [CpOp.get, .fst, .put, .fill], cpBad op 0 0x7FF80 0 = false) ∧ s.pairVal 0 1 (.even 2) = (0x7FF80, 0) ∧
      sends g s = true ∧ (s.pairVal 0 1 (.even 3)) = (7, 0) ∧ sends h s = true ∧ (sendOperands h s).1.we.getLsbD 31 = false := by
  decide +kernel

/-- GlobalMemoryIssue: the last word and the last pair of the canonical range, in the prefix and past it; a valid group; a
connection that is open. -/
theorem test_premises_GlobalMemoryIssue :
    ∀ s0 ∈ [user, fresh],
      let s : State := { withG s0 [(2, 0xFFFFFFF8), (3, 0x1FFFFF), (4, 9), (5, 0)] with
        groups := Tab.set [] (4096 * 5 + 9) [0x00010005, 1, 0x20000000, 0] }
      let f : Form := { a := .p (.even 1), dst := .r (.g 1) }
      let g : Form := { a := .p (.even 1), dst := .p (.even 3) }
      let w1 : Form := { a := .p (.even 1), e := .r (.g 8), d := .r (.g 9) }
      let w2 : Form := { a := .p (.even 1), e := .r (.g 8), d := .p (.even 4) }
      let w3 : Form := { a := .p (.even 1), b := .r (.g 7), e := .r (.g 8), d := .p (.even 2) }
      let must := s.isOpen 0 1
      (∀ x ∈ [f, g], issuesPlain x s = true) ∧ readsOpen s < 8 ∧ (s.pairVal 0 1 (.even 1)).2.toNat < 2 ^ 21 ∧
      (s.pairVal 0 1 (.even 1)).1.toNat % 8 = 0 ∧ (∀ x ∈ [w1, w2, w3], issues must x s = true) ∧
      ((entered must s).pending.filter fun x => x.core == 0 && x.cmd.isNone).length < 64 ∧
      (s.pairVal 0 1 (.even 2)).1.toNat < 4096 ∧ (s.pairVal 0 1 (.even 2)).2 = 0 ∧
      (∀ x ∈ [s, (operands must w3 s).2], x.groupValid (x.core 0).pid 9 = true) ∧
      (let c := (operands must w3 s).2.conn 66 2
       c.unreachable = false ∧ c.exchanging = false ∧ c.unacked.length < 1024) := by decide +kernel

/-- ControlRegisters: FFLAGS, CYCLE and a supervisor register from user contexts and context 7; PQDATA from context 7 in and past
the prefix. -/
theorem test_premises_ControlRegisters :
    (∀ s ∈ [user, fresh, sup, runsIn true 7], ∀ n ∈ [0, 4, 0x10D, 0x123],
      let must (f : Form) : Bool := s.isOpen 0 s.cur.ctx && (n == 0x10D || f.ports)
      ∀ f ∈ [({ dst := .r (.g 1) } : Form), { d := .r (.g 2) }],
        issues (must f) f s = true ∧ flagsReady (entered (must f) s) = true ∧ csrAllocated n = true) ∧
    csrReadOnly 4 = false ∧ csrReadOnly 0x10D = false ∧ csrReadOnly 0 = true ∧ sup.cur.ctx = 7 ∧
    (let q (l : List Word) : State := (sup.updCore 0 fun k => { k with qctx := 3, qdir := 2 }).updCtx 0 3 fun x => { x with inq := x.inq.set 2 l }
     let words (s : State) : List Word := (s.ctx 0 (s.core 0).qctx.toNat).inq[(s.core 0).qdir.toFin]
     words (q []) = [] ∧ words (q [4, 5]) = 4 :: [5] ∧ (words (q [4, 5, 6])).length < 4 ∧ 4 ≤ (words (q [4, 5, 6, 7])).length) := by
  decide +kernel

/-- ControlRegisterRules: the numbers where the clauses meet: 0xFF and 0x100 from a user context; from context 7 a number that is not
allocated and one with read-only fields. -/
theorem test_premises_ControlRegisterRules :
    attends { dst := .r (.g 1) } user = true ∧ attends { d := .r (.g 1) } user = true ∧ user.cur.ctx ≠ 7 ∧
    attends { dst := .r (.g 1) } sup = true ∧ attends { d := .r (.g 1) } sup = true ∧ csrAllocated 0xFF = false ∧ csrReadOnly 0 = true ∧
    csrAllocated 0xFFFFFFF = false ∧
    (csrPut user 0 1 0x120 0x80000F80).core 0 ≠ user.core 0 ∧ (user.core 0).fqCnt = 0 ∧
    (let s := user.updCore 0 fun k => { k with fqCnt := 1 }
     (s.core 0).fqCnt ≠ 0) ∧
    (let s := user.updCore 0 fun k => { k with fqNlm1 := 7, fqHead := 6, fqCnt := 3, chkcnt := 9, tcnt := 1 }
     let k := s.core 0
     let freed (x : Nat) : Nat := (x + (k.fqNlm1.toNat + 1) - k.fqHead.toNat) % (k.fqNlm1.toNat + 1)
     k.fqHead.toNat < k.fqNlm1.toNat + 1 ∧ k.fqCnt.toNat ≤ k.fqNlm1.toNat + 1 ∧ freed 0 ≤ k.fqCnt.toNat ∧ ¬(freed 3 ≤ k.fqCnt.toNat) ∧
     ¬(8 < k.fqNlm1.toNat + 1) ∧ k.ret = false ∧
     (k.mlim.toNat ≠ 0 ∧ k.mlim.toNat ≤ 1024 ∧ ¬(k.mlim.toNat ≤ 1023)) ∧ (k.tlim.toNat ≠ 0 ∧ ¬(k.tlim.toNat ≤ k.tcnt.toNat)) ∧
     (9 ≠ 0 ∧ 9 ≤ k.chkcnt.toNat ∧ ¬(10 ≤ k.chkcnt.toNat)) ∧ ((s.ctx 0 k.qctx.toNat).inq[k.qdir.toFin]).length < 8) := by decide +kernel

/-- TrapsAndPrivilege: each form from a user context; from context 7 a record line, an endpoint, the steps 0 and 65535, the maps
that MAPW writes. -/
theorem test_premises_TrapsAndPrivilege :
    (∀ f ∈ [({ a := .r (.g 4), d := .p (.even 1), also := payRegs 8 } : Form), { a := .r (.g 4), e := .r (.g 5), d := .p (.even 1) },
        { a := .r (.g 4), b := .r (.g 6), e := .r (.g 5) }, { a := .r (.g 4), e := .r (.g 5), d := .r (.g 7) }],
      attends f user = true ∧ attends f fresh = true) ∧
    ((Reg.g 5).notPort = true ∧ ((withG user [(5, 0x80000000)]).regVal 0 1 (.g 5)).getLsbD 31 = true ∧ (user.regVal 0 1 (.g 5)).getLsbD 31 = false) ∧
    (let s := withG sup [(2, 3), (3, 1), (4, 0x17FF80), (8, 65535), (9, 0x5FFC), (10, 0x00000803)]
     let f : Form := { a := .r (.g 4), e := .r (.g 5), d := .p (.even 1) }
     let g : Form := { a := .r (.g 8), b := .r (.g 6), e := .r (.g 5) }
     let h : Form := { a := .r (.g 9), e := .r (.g 5), d := .r (.g 7) }
     s.cur.ctx = 7 ∧ (∀ x ∈ [f, g, h], sends x s = true ∧ (sendOperands x s).1.we.getLsbD 31 = false) ∧
     (sendOperands f s).1.wa.toNat % 128 = 0 ∧ localOk (sendOperands f s).1.wa.toNat 128 = true ∧ s.pairVal 0 7 (.even 1) = (3, 1) ∧
     (sendOperands g s).1.wa.toNat < 65536 ∧ (sendOperands h s).1.wa.toNat % 4 = 0 ∧ localOk (sendOperands h s).1.wa.toNat 4 = true ∧
     (∀ w ∈ [(0x008 : Nat), 0x7F9, 2, 5], w % 8 < 6 ∧ w / 2 ^ 11 % 32 = 0 ∧ (w % 8 < 2 ↔ w / 8 % 256 ≠ 0))) := by decide +kernel

/-- A core whose context c runs the message of a slot. -/
def trapping (c : Nat) (openPrefix : Bool) (rcnt : BitVec 2) : State :=
  let m : Msg := { Msg.blank with rcnt := rcnt }
  (placed.updCtx 0 c fun x => { x with act := some { actAt openPrefix with trig := m } }).updCore 0 fun k =>
    { k with redlim := 2, buf := [⟨m, 3, some c, false⟩] }

/-- TrapEntry: context 1 below REDLIM and at it, in the prefix and past it; context 7. -/
theorem test_premises_TrapEntry :
    ∀ x ∈ [(1, true, (1 : BitVec 2)), (1, true, 2), (1, false, 0), (7, true, 0)],
      let s := trapping x.1 x.2.1 x.2.2
      (∃ a y, (s.flush 0 x.1).act 0 x.1 = some a ∧ ((s.flush 0 x.1).core 0).buf.find? (fun y => y.runner == some x.1) = some y ∧ y.msg = a.trig ∧
        a.trig.long = false ∧ a.open_ = x.2.1) ∧ (s.core 0).vslot ≠ some x.1 ∧ (s.core 0).iter = none ∧ s.hostRecs.length < 1024 := by
  intro x h
  simp only [List.mem_cons, List.not_mem_nil, or_false] at h
  rcases h with rfl | rfl | rfl | rfl <;> exact ⟨⟨_, _, rfl, rfl, by decide⟩, by decide⟩

/-- UndoLog: an activation in its prefix with a word logged and one not; distinct aligned words and lines. -/
theorem test_premises_UndoLog :
    (let s := fresh.updAct 0 1 fun a => { a with log := [.word 4 7] }
     (∃ a, s.act 0 1 = some a ∧ a.open_ = true ∧ wordLogged a.log 4 = true ∧ wordLogged a.log 0 = false)) ∧
    (∀ x ∈ [(0, (1 : Word)), (0x5FFC, 2), (0x17FFFC, 3)], x.1 % 4 = 0 ∧ localOk x.1 4 = true) ∧
    [(0, (1 : Word)), (0x5FFC, 2), (0x17FFFC, 3)].Pairwise (fun x y => x.1 ≠ y.1) ∧
    (∀ x ∈ [(0, (⟨true, false⟩ : Side)), (0x17FF80, ⟨false, true⟩)], x.1 % 128 = 0 ∧ localOk x.1 128 = true) ∧
    [(0, (⟨true, false⟩ : Side)), (0x17FF80, ⟨false, true⟩)].Pairwise (fun x y => x.1 ≠ y.1) :=
  ⟨⟨_, rfl, by decide⟩, by decide⟩

/-- RegisterFrames: an addition, a floating-point addition and a load that give a next state. -/
theorem test_premises_RegisterFrames :
    (∃ t, Gives (.add (.g 1) (.g 2) (.g 3)) user t) ∧ (∃ t, Gives (.fadd (.g 1) (.g 2) (.g 3) .rne) user t) ∧
    (∃ t, Gives (.ldw (.g 1) ⟨1, true, 1⟩) (withP user 0x5FF8) t) ∧
    loadable (operandsPlain { dst := .r (.g 1) } (withP user 0x5FF8)).2 0 0x5FFC 4 = true ∧
    issuesPlain { a := .r (.g 2), b := .r (.g 3), dst := .r (.g 1) } user = true :=
  ⟨⟨_, rfl⟩, ⟨_, rfl⟩, ⟨_, rfl⟩, by decide, by decide⟩

/-- LoadResults, IssueTraps: an LDS on an empty line at the end of the scratchpad; a word with an uncorrectable error. -/
theorem test_premises_UnreadableWords :
    (let s := withP user 0x17FFFC
     let a := (s.ea ⟨1, true, 0⟩ 4).toNat
     issuesPlain { dst := .r (.g 1) } s = true ∧ s.isFull 0 a = false ∧ a % 4 = 0 ∧ localOk a 4 = true) ∧
    (let s := (withP user 0x5FFC).updMem (placeOf 0 0x5FFC) fun m => m.setErr (offsetOf 0x5FFC) .uncorrectable
     let u := (operandsPlain { dst := .r (.g 1) } s).2
     let a := (u.ea ⟨1, false, 0⟩ 4).toNat
     issuesPlain { dst := .r (.g 1) } s = true ∧ a % 4 = 0 ∧ localOk a 4 = true ∧ unviewed u 0 1 a = true ∧
     ((settledFor u 0 1 a).mem (placeOf 0 a)).err (offsetOf (a - a % 4)) = some .uncorrectable) := by decide +kernel

/-- SealAndFence, TaskRecord: turns that defer accesses. -/
theorem test_premises_DeferredAccesses :
    (issuesPlain {} (inLate fresh) = true ∧ (inLate fresh).cur.late = true ∧ (inLate fresh).releaseWaits 0 1 = false) ∧
    (∀ last : Bool,
      let s := inLate (withG fresh [(2, if last then 0x5FD0 else 0), (4, 0x00400001), (5, 3)])
      let f : Form := { a := .r (.g 4), e := .r (.g 5), d := .r (.g 2), also := payRegs 8 }
      let must := s.isOpen 0 1 && (s.wordsFull 0 1 (recordWords (peeked f s).wd.toNat) || f.ports)
      let v := (operands must f s).1
      issues must f s = true ∧ s.cur.late = true ∧ v.wa.getLsbD 31 = false ∧ v.wd.toNat % 16 = 0 ∧ v.wd.toNat ≤ 0x5FD0) := by
  decide +kernel

/-- TrapEntry: an activation in its prefix that has logged two words, in a turn that unwinds later; its unwinding, with a write-back that
is not the last and with the last. -/
theorem test_premises_Unwinding :
    (let s := inLate ((trapping 1 true 0).updAct 0 1 fun a => { a with log := [.word 4 7, .side 0 ⟨true, false⟩] })
     ∃ a y, (s.flush 0 1).act 0 1 = some a ∧ ((s.flush 0 1).core 0).buf.find? (fun y => y.runner == some 1) = some y ∧ y.msg = a.trig ∧
       a.trig.long = false ∧ a.open_ = true ∧ a.log ≠ [] ∧ s.cur.late = true ∧ (s.core 0).vslot ≠ some 1 ∧ (s.core 0).iter = none) ∧
    (∀ end_ : Bool,
      let a : Act := { actAt true with log := .word 4 7 :: if end_ then [] else [.side 0 ⟨true, false⟩] }
      let s := (trapping 1 true 0).updCtx 0 1 fun x => { x with act := none, undo := some ⟨a, ⟨4, 2, 0⟩, 10, 10, []⟩ }
      (s.ctx 0 1).undo = some ⟨a, ⟨4, 2, 0⟩, 10, 10, []⟩ ∧ s.act 0 1 = none ∧ a.trig.long = false ∧
      (s.core 0).buf.find? (fun y => y.runner == some 1) = some ⟨a.trig, 3, some 1, false⟩ ∧ ([] : List Word).length ≤ 3) :=
  ⟨⟨_, _, rfl, rfl, by decide⟩, by decide +kernel⟩

/-- RegisterFrames: loads of both kinds, a fused product, a conversion with a draw and pairs that give a next state. -/
theorem test_premises_MoreFrames :
    (∃ t, Gives (.lds (.g 1) ⟨1, true, 1⟩) ((withP user 0x100000).setLocalSide 0 0x100000 ⟨true, false⟩) t) ∧
    (∃ t, Gives (.ldd (.even 1) ⟨1, true, -1⟩) (withP user 0x180000) t) ∧ (∃ t, Gives (.ffma (.g 1) (.g 2) .cc .rne) user t) ∧
    (∃ t, Gives (.fcvt (.g 1) (.g 2) .sr true .e4m3 .fp32) user t) ∧ (∃ t, Gives (.twosum (.even 1) (.g 2) (.g 3)) user t) ∧
    (∃ t, Gives (.twoprod .zr (.g 2) .lk) user t) :=
  ⟨⟨_, rfl⟩, ⟨_, rfl⟩, ⟨_, rfl⟩, ⟨_, rfl⟩, ⟨_, rfl⟩, ⟨_, rfl⟩⟩

/-! ## Witnesses: operations and events of the device -/

/-- MessageArrivals: the second message of the mesh goes before the first, of another stream; each receiver; a slot and none; the
supervisor of PID 5; a sump entry of core 128; a record for the supervisor queue at the first and the last line of the scratchpad. -/
theorem test_premises_MessageArrivals :
    (State.keepsOrder (mail 0 1) (mail 7 1) = false ∧ (mail 0xFFFF 1).kind ≠ 5 ∧ (placed.core 0).pkey = 1 ∧
     (mail 0 1).kind.toNat < 5 ∧ placed.relocates 0 (mail 0 1) = none ∧ placed.gmem.errs = [] ∧ placed.streamSpilled 0 (mail 0 1) = false ∧
     placed.slotRoom 0 (mail 0 1) = true ∧ (placed.cluster (clusterOf 0)).power ≠ .off ∧
     (placed.cluster (clusterOf 39999)).power = .off ∧ (mail 0 2).dkey ≠ (placed.core 0).pkey ∧ (mail 0 2).div = false ∧
     (mail 0 2).isRecord = false ∧ placed.mapValid 5 = true ∧ (placed.mapSv 5).1 = 7 ∧ placed.resolve 5 7 0 = .here 131 1 ∧ placed.supervisorOf 5 = .here 131 1 ∧
     (mail 39999 0).long = false ∧ (placed.die 6).sumpQuota < placed.sumpUsed 6 + (mail 39999 0).sumpBytes ∧ dieOfCore 39999 = 6) ∧
    (let s := (placed.updDie 0 fun d => { d with sumpQuota := 2 ^ 20 }).updCore 0 fun k => { k with buf := List.replicate 48 ⟨mail 0 1, 1, none, false⟩ }
     s.slotRoom 0 (mail 0 1) = false ∧ s.sumpUsed 0 + (mail 0 1).sumpBytes ≤ (s.die 0).sumpQuota) ∧
    (let e : Spilled := ⟨128, 3, mail 128 1⟩
     let s := placed.updDie 0 fun d => { d with sump := [⟨0, 1, mail 0 1⟩, e] }
     (s.die 0).sump = [⟨0, 1, mail 0 1⟩] ++ e :: [] ∧ (∀ x ∈ [(⟨0, 1, mail 0 1⟩ : Spilled)], x.core ≠ 128) ∧ e.core = 128 ∧ dieOfCore 128 = 0 ∧ (s.cluster (clusterOf 128)).power ≠ .off ∧
     e.msg.dkey = (s.core 128).pkey ∧ s.slotRoom 128 e.msg = true) := by decide +kernel

theorem test_premises_SupervisorQueue :
    ∀ last : Bool,
      let x : Slot := ⟨{ mail 0 1 with kind := 4, nw := 26, body := List.replicate 26 0 }, 1, none, false⟩
      let s := placed.updCore 0 fun k => { k with
        fqEn := true, fqBase := if last then 4095 else 0, fqNlm1 := if last then 0 else 4095, buf := [⟨mail 0 1, 1, none, false⟩, x] }
      let n := (s.core 0).fqNlm1.toNat + 1
      (s.core 0).fqEn = true ∧ (s.core 0).fqBase.toNat + n ≤ 4096 ∧ (s.core 0).fqCnt.toNat < n ∧
      (s.core 0).buf.find? Slot.forQueue = some x ∧ x.msg.isRecord = true ∧ x.msg.body.length = 26 := by decide +kernel

/-- Dispatches: two ready calls, of which the one of higher priority goes first; a continuation; the ends of the held interval. -/
theorem test_premises_Dispatches :
    (let x : Slot := ⟨{ mail 0 1 with prio := 3 }, 9, none, false⟩
     let z : Slot := ⟨{ mail 0 1 with kind := 1, nw := 26, body := List.replicate 26 0 }, 9, none, false⟩
     let s (l : List Slot) : State :=
       { placed.updCore 0 fun k => { k with buf := l } with host := { placed.host with booted := true } }
     let a := s [⟨mail 0 1, 1, none, false⟩, x]
     userOpen a 0 = true ∧ supOpen a 0 = true ∧ (a.ctx 0 7).isFree = true ∧ [1, 2, 3, 4, 5, 6].find? (fun c => (a.ctx 0 c).isFree) = some 1 ∧
     chooseSlot ((a.core 0).buf.filter (Slot.userReady (a.core 0).s)) = some x ∧ x.msg.kind ≠ 1 ∧ x.msg.kind ≠ 4 ∧
     chooseSlot (((s [z]).core 0).buf.filter (Slot.userReady (a.core 0).s)) = some z ∧ z.msg.kind = 1 ∧ x.msg.forUser = true) ∧
    (let far (n : Nat) : Nat := (n + 65536 - 0) % 65536
     ¬(1 ≤ far 0) ∧ (1 ≤ far 1 ∧ far 1 ≤ 32767) ∧ far 32767 ≤ 32767 ∧ ¬(far 32768 ≤ 32767)) := by decide +kernel

/-- ContextEvents: a deadline in this cycle; a stopped release of no activation and of one that has ended; a pending STEP at and
before the quota; an operation for g1 and for lk; a word and a place for one port. -/
theorem test_premises_ContextEvents :
    (let s := user.updAct 0 1 fun a => { a with deadline := 0 }
     (∃ a, s.act 0 1 = some a ∧ a.deadline ≤ s.now) ∧ (s.cluster (clusterOf 0)).power = .on ∧ (s.core 0).stream = none) ∧
    (let s := (sending placed)
     s.act 0 1 = none ∧ s.releaseWaits 0 1 = false ∧ released s 0 [.msg (mail 0 1), .matrix (mxCmd .cfg 0), .copy (copyCmd .fill 0 0 none)]) ∧
    (let s := (sending user).updAct 0 1 fun a => { a with ending := true }
     (∃ a, s.act 0 1 = some a ∧ a.ending = true ∧ a.steps = 0) ∧ s.releaseWaits 0 1 = false ∧
     released s 0 [.msg (mail 0 1), .matrix (mxCmd .cfg 0), .copy (copyCmd .fill 0 0 none)]) ∧
    (let s := user.updAct 0 1 fun a => { a with steps := 1 }
     (∃ a, s.act 0 1 = some a ∧ a.ending = false ∧ a.open_ = false ∧ a.steps = 1) ∧ (s.ctx 0 1).handing = [] ∧ s.stepReady 0 = true ∧
     (s.core 0).k + 1 = (s.core 0).q ∧ ((s.updCore 0 fun k => { k with q := 3 }).core 0).k + 1 ≠ 3) ∧
    (let s := (user.updCore 0 fun k => { k with iter := some ⟨1, .lk, 4, 1, 10⟩ })
     (s.core 0).iter = some ⟨1, .lk, 4, 1, 10⟩ ∧ ∀ d, Reg.lk ≠ .port d) ∧
    (let w : PortWord := ⟨9, .w, 3⟩
     let p : PortPlace := ⟨9, .e⟩
     let s : State := { user with portWords := [⟨9, .s, 1⟩, w], portPlaces := [p] }
     s.portWords = [⟨9, .s, 1⟩] ++ w :: [] ∧ (s.cluster (clusterOf (w.ctx / 8))).power ≠ .off ∧ s.portPlaces = [] ++ p :: []) :=
  ⟨⟨⟨_, rfl, by decide⟩, by decide⟩, ⟨by decide, by decide, test_released _ rfl (by decide +kernel)⟩,
   ⟨⟨_, rfl, by decide⟩, by decide, test_released _ rfl (by decide +kernel)⟩, ⟨⟨_, rfl, by decide⟩, by decide⟩,
   ⟨rfl, by intro d h; cases h⟩, by decide⟩

/-- ContextEvents: stores of each width that defer, an STD in TCM; a deferred store that may perform and one that may not; deferred
stores of different words; a word read ahead, and the load that takes it. -/
theorem test_premises_LateStores :
    (∀ n ∈ [4, 2, 1],
      let s := { withG (withP fresh 0x17FFF8) [(2, 7)] with cur := ⟨0, 1, 10, 11, 0, 0, [], true⟩ }
      let a := (s.ea ⟨1, true, 1⟩ n).toNat
      let f : Form := { d := .r (.g 2) }
      issues (s.isOpen 0 1 && (s.wordsFull 0 1 [a - a % 4] || f.ports)) f s = true ∧ a % n = 0 ∧ localOk a n = true ∧ 0x100000 ≤ a) ∧
    (let s := { withP user 0x5FF8 with cur := ⟨0, 1, 10, 11, 0, 0, [], true⟩ }
     let a := (s.ea ⟨1, false, 0⟩ 8).toNat
     issues (s.isOpen 0 1 && s.wordsFull 0 1 [a, a + 4]) { d := .p (.even 1) } s = true ∧ a % 8 = 0 ∧ localOk a 8 = true ∧ a < 0x100000) ∧
    (∀ second : Bool,
      let x : LateStore := ⟨0x100004, 0xFF, 7, .scalar, false⟩
      let s : State := { user.updCtx 0 1 fun y => { y with lateStores := [⟨if second then 0x100004 else 0x100000, 0xFFFFFFFF, 3, .scalar, false⟩, x] } with
        turns := [.perform 0 1 1] }
      let u : State := { turnStart (some (.perform 0 1 1)) s with turns := [] }
      let l := (u.ctx 0 1).lateStores
      l[1]? = some x ∧ x.addr % 4 = 0 ∧ ((∃ y ∈ l.take 1, y.addr = x.addr) ↔ second = true) ∧
      (u.mem (placeOf 0 x.addr)).err (offsetOf x.addr) ≠ some .uncorrectable ∧ localOk x.addr 4 = true) ∧
    (let s : State := { user with turns := [.readAhead 0 1 0x17FFFC] }
     let u : State := { turnStart (some (.readAhead 0 1 0x17FFFC)) s with turns := [] }
     (u.act 0 1).isSome = true ∧ localOk 0x17FFFC 4 = true ∧ (u.ctx 0 1).views = [] ∧ (u.ctx 0 1).lateStores = [] ∧
     (u.mem (placeOf 0 0x17FFFC)).err (offsetOf 0x17FFFC) = none) ∧
    (let s := (withP user 0x100000).updCtx 0 1 fun x => { x with views := [⟨0x100000, 9, false⟩] }
     let u := (operandsPlain { dst := .r (.g 1) } s).2
     issuesPlain { dst := .r (.g 1) } s = true ∧ (u.ea ⟨1, true, 0⟩ 4).toNat = 0x100000 ∧ (u.ctx 0 1).views = [⟨0x100000, 9, false⟩]) := by
  decide +kernel

/-- ServiceThread: an atomic at the last word of TCM and of the scratchpad, with a reply handler word and without; a decrement that
fires and one that does not. -/
theorem test_premises_ServiceThread :
    (∀ last quiet : Bool,
      let a : Word := if last then 0x17FFFC else 0x5FFC
      let m : Msg := { mail 0 1 with kind := 2, score := 7, nw := 5, body := [0x18, a, 4, 0, if quiet then 0x80000000 else 12] }
      let x : Slot := ⟨m, 1, none, false⟩
      let s := placed.updCore 0 fun k => { k with buf := [x] }
      nextService s 0 = some x ∧ serviceReady s 0 = true ∧ (m.pay 0).toNat = 0x18 ∧ (m.pay 1).toNat % 4 = 0 ∧ localOk (m.pay 1).toNat 4 = true ∧
      s.poisoned 0 (m.pay 1).toNat = false ∧ (s.mem (placeOf 0 (m.pay 1).toNat)).err (offsetOf (m.pay 1).toNat) = none ∧
      (m.pay 4).getLsbD 31 = quiet ∧ s.resolve m.pid m.score m.schip = .here 131 1) ∧
    (∀ fires : Bool,
      let m : Msg := { mail 0 1 with kind := 3, nw := 2, body := [0x5FD0, 2] }
      let x : Slot := ⟨m, 1, none, false⟩
      let s := (placed.updCore 0 fun k => { k with buf := [x] }).setLocalWord 0 0x5FD0 (if fires then 2 else 5)
      nextService s 0 = some x ∧ serviceReady s 0 = true ∧ (m.pay 0).toNat % 16 = 0 ∧ (m.pay 0).toNat + 48 ≤ 0x6000 ∧
      (∀ i, i < 12 → (s.mem (.tcm 0)).err (0x5FD0 + 4 * i) = none) ∧
      (decide (0 < (s.localWord 0 0x5FD0).toInt) && s.localWord 0 0x5FD0 - m.pay 1 == 0) = fires ∧
      0 ≤ (s.localWord 0 0x5FD0 - m.pay 1).toInt ∧ (s.localWord 0 (0x5FD0 + 8)).toNat % 16 ≤ 8) := by decide +kernel

/-- An entry of the vector queue of context 1 with its first pass to be granted, or after it. -/
def queued (i : Instr) (x : Word) (granted : Nat) : VecEntry := ⟨i, 1, 10, 16, x, none, 0, granted, [], [], 0, none, false, [], []⟩

/-- StreamsAndPasses: an element of SADD that is the last; a queued VADD; an ended VADD, and a VMVG of lane 63. -/
theorem test_premises_StreamsAndPasses :
    (let r : StreamRun := ⟨1, .sadd, 2, 0, 1, .int false, 3, 4, 0, 11, 0, 0, []⟩
     let s := (user.updCore 0 fun k => { k with stream := some r }).updCtx 0 1 fun x => { x with pa := (x.pa.set 0 0x5FFC).set 2 0x100000 }
     (s.core 0).stream = some r ∧ (s.act 0 1).isSome = true ∧ s.stepBlocked 0 1 = false ∧ r.ty = .int false ∧
     s.wordsFull 0 1 [0x100000] = false ∧ s.poisoned 0 0x5FFC = false ∧ localOk 0x5FFC 4 = true ∧ localOk 0x100000 4 = true ∧
     (s.mem (placeOf 0 0x5FFC)).err (offsetOf 0x5FFC) = none ∧ r.i + 1 = r.n ∧ (s.core 0).mism = 0 ∧ (s.ctx 0 1).lateStores = [] ∧
     (s.ctx 0 1).views = [] ∧ (r.op = .scpy → r.b = r.a) ∧
     (let t := s.updCtx 0 1 fun x => { x with pa := x.pa.set 1 0x5FFE }
      ((t.ctx 0 1).pa[1]).toNat % 4 ≠ 0 ∧ ((t.ctx 0 1).pa[0]).toNat % 4 = 0 ∧ ((t.ctx 0 1).pa[2]).toNat % 4 = 0)) ∧
    (let e := queued (.vadd 1 2 3 ⟨true, .rne, false⟩) 0 0
     let s := user.updCore 0 fun k => { k with vq := [e], vslot := some 1 }
     (s.cluster 0).power = .on ∧ eligibleCores s 0 = [0] ∧ (s.core 0).vq = [e] ∧ (s.core 0).vmism = 0) ∧
    (let e := { queued (.vadd 1 2 3 ⟨true, .rne, false⟩) 0 1 with out := [(0, 4, false), (15, 5, true)] }
     e.allGranted = true ∧ e.failed = false ∧ e.lost = none ∧ vecDst e.ins = some 1 ∧ e.out.Pairwise (fun x y => x.1 ≠ y.1)) ∧
    (let e := queued (.vmvg (.g 3) 2 (.g 1)) 63 1
     e.allGranted = true ∧ e.x.toNat < 64 ∧ (user.core 0).lanePoison 2 e.x.toNat = false ∧
     ((user.updCore 0 fun k => { k with vq := [e], vpoison := k.vpoison.set 2 (BitVec.allOnes 64) }).core 0).vq = e :: [] ∧
     ((user.updCore 0 fun k => { k with vpoison := k.vpoison.set 2 (BitVec.allOnes 64) }).core 0).lanePoison 2 e.x.toNat = true ∧ (user.act 0 1).isSome = true) := by decide +kernel

/-- Dispatches: a supervisor message for context 7. -/
theorem test_premises_SupervisorDispatch :
    let x : Slot := ⟨{ mail 0 1 with kind := 4 }, 1, none, false⟩
    let s : State := { placed.updCore 0 fun k => { k with buf := [x] } with host := { placed.host with booted := true } }
    supOpen s 0 = true ∧ (s.ctx 0 7).isFree = true ∧ chooseSlot ((s.core 0).buf.filter (supTakes s 0)) = some x := by decide +kernel

/-- ContextEvents: releases that wait behind others, of an activation past its prefix and of one that ends; one that a vector load
before it holds up. -/
theorem test_premises_ReleaseResume :
    (let s := (sending placed).updCtx 0 1 fun x => { x with handing := [], waiting := [[.msg (mail 0 1), .matrix (mxCmd .cfg 0), .copy (copyCmd .fill 0 0 none)]], sbuf := [] }
     let x := s.ctx 0 1
     s.act 0 1 = none ∧ s.releaseWaits 0 1 = false ∧ x.handing = [] ∧ x.lateStores = [] ∧ (s.cluster (clusterOf 0)).power = .on ∧
     released (s.flush 0 1) 0 (x.handing ++ x.waiting.flatten)) ∧
    (let s := (sending user).updAct 0 1 fun a => { a with ending := true }
     (s.core 0).vslot ≠ some 1 ∧ (s.ctx 0 1).waiting = []) ∧
    (let s := (placed.updCtx 0 1 fun x => { x with waiting := [[.msg (mail 0 1)]] }).updCore 0 fun k => { k with
       vq := [⟨.vld 1 ⟨0, false, 0⟩ false .fp32, 1, 10, 16, 0, none, 0, 0, [], [], 0, none, false, [], []⟩] }
     (s.ctx 0 1).handing = [] ∧ (s.ctx 0 1).waiting = (.msg (mail 0 1) :: []) :: [] ∧ s.act 0 1 = none ∧
     ∃ e ∈ (s.core 0).vq, e.ctx = 1 ∧ e.after = 0 ∧ memPending e = true) :=
  ⟨⟨by decide, by decide, by decide, by decide, by decide, test_released _ rfl (by decide +kernel)⟩, by decide, by decide +kernel⟩

/-- ContextEvents: a full-word vector store with poison that performs into a word with an error; the two words of an STD; a TCM word of the
LDD that comes next. -/
theorem test_premises_MoreLateStores :
    (let x : LateStore := ⟨0x5FFC, 0xFFFFFFFF, 7, .vector, true⟩
     let s : State := { (user.updCtx 0 1 fun y => { y with lateStores := [⟨0x5FFC, 0xFFFFFFFF, 3, .scalar, false⟩, x] }).updMem (.tcm 0) (fun m =>
       m.setErr 0x5FFC .uncorrectable) with turns := [.perform 0 1 1] }
     let u : State := { turnStart (some (.perform 0 1 1)) s with turns := [] }
     let l := (u.ctx 0 1).lateStores
     (u.ctx 0 1).undo = none ∧ l[1]? = some x ∧ x.addr % 4 = 0 ∧ x.mask = 0xFFFFFFFF ∧
     ∀ y ∈ l.take 1, ¬(y.addr = x.addr ∧ (y.kind = .vector ↔ x.kind = .vector))) ∧
    (∀ high : Bool,
      let a := if high then 0x5FFC else 0x5FF8
      let s : State := { (withP user 0x5FF8).updCluster 0 fun x => { x with code := [(10, 0x8A8C)] } with turns := [.readAhead 0 1 a] }
      let u : State := { turnStart (some (.readAhead 0 1 a)) s with turns := [] }
      let x := u.ctx 0 1
      u.act 0 1 = some (actAt false) ∧ a % 4 = 0 ∧ localOk a 4 = true ∧ u.streaming 0 1 = false ∧ x.lateStores = [] ∧ x.views = [] ∧
      decode (u.parcelsAt 0 10) = .ok (.ldd (.even 1) ⟨1, true, 0⟩, 1) ∧
      (let ea := (x.pa[1] + wInt (0 * 8)).toNat
       ea ≤ a ∧ a < ea + 8) ∧ (u.mem (placeOf 0 a)).err (offsetOf a) = none) := by decide +kernel

/-- StreamsAndPasses: elements of a floating-point stream and of SCPY, and one in a turn that defers its store. -/
theorem test_premises_StreamElements :
    ∀ n : Fin 3,
      let r : StreamRun := ⟨1, if n = 1 then .scpy else .sfma, 2, 0, if n = 1 then 0 else 1, .fp .rne, 3, 5, 0, 11, 0, 0, []⟩
      let s0 := (user.updCore 0 fun k => { k with stream := some r }).updCtx 0 1 fun x => { x with pa := (x.pa.set 0 0x5FFC).set 2 0x100000 }
      let s := if n = 2 then inLate s0 else s0
      (s.core 0).stream = some r ∧ s.act 0 1 = some (actAt false) ∧ s.stepBlocked 0 1 = false ∧ r.i + 1 ≠ r.n ∧
      s.wordsFull 0 1 [0x100000] = false ∧ (s.core 0).mism = 0 ∧ (s.ctx 0 1).lateStores = [] ∧ (s.ctx 0 1).views = [] ∧
      (r.op = .scpy → r.b = r.a) ∧ (s.cur.late = true ↔ n = 2) ∧ r.ty = .fp .rne ∧
      (∀ high : Bool, let w := if high then 0x5FFC else 0x100000
        localOk w 4 = true ∧ s.poisoned 0 w = false ∧ (s.mem (placeOf 0 w)).err (offsetOf w) = none) := by decide +kernel

/-- Core 0 with one entry of its vector queue; lane 1 of v2 is poisoned and lane 2 of v3 is 63. -/
def passing (e : VecEntry) : State := user.updCore 0 fun k => { k with
  vq := [e], vslot := some 1, lanes := [(194, 63)], vpoison := k.vpoison.set 2 2 }

/-- StreamsAndPasses: the first pass and the last of an instruction of 63 elements, of the lanes, of VSCAN, and with two mismatches; a load,
a store, a gather and a scatter of FP16 at the end of TCM, in a turn that defers accesses and in one that does not. -/
theorem test_premises_Passes :
    (∀ last : Bool,
      let e := { queued (.vperm 1 2 3) 0 (if last then 3 else 0) with vl := 63 }
      let s := passing e
      (s.cluster 0).power = .on ∧ eligibleCores s 0 = [0] ∧ (s.core 0).vq = [e] ∧ (s.core 0).vmism = 0) ∧
    (let e := queued (.vscan 1 2 ⟨false, .rne, true⟩) 0 0
     eligibleCores (passing e) 0 = [0] ∧ e.out = []) ∧
    (let e := queued (.vadd 1 2 3 ⟨false, .rne, true⟩) 0 0
     let s := (passing e).updCore 0 fun k => { k with vmism := 2, mlim := 0, tlim := 0 }
     eligibleCores s 0 = [0] ∧ 2 ≤ (s.core 0).vmism ∧ isVecMem e.ins = false ∧ (s.core 0).mlim = 0 ∧ (s.core 0).tlim = 0) ∧
    (∀ (n : Fin 4) (late : Bool),
      let i : Instr := if n = 0 then .vld 1 ⟨1, false, 0⟩ false .fp16 else if n = 1 then .vst 2 ⟨1, false, 0⟩ .fp16
        else if n = 2 then .vgth 1 ⟨1, false, 0⟩ false 3 .fp16 else .vsct 2 ⟨1, false, 0⟩ 3 .fp16
      let e := queued i 0x5FE0 0
      let s := if late then inLate (passing e) else passing e
      (s.cluster 0).power = .on ∧ eligibleCores s 0 = [0] ∧ (s.core 0).vq = [e] ∧ e.got = [] ∧ e.owed = [] ∧ e.x.toNat % 4 = 0 ∧
      (s.ctx 0 1).lateStores = [] ∧ e.held = none ∧ (s.cur.late = true ↔ late = true) ∧
      (∀ n : Fin 16, localOk (0x5FE0 + 4 * (n.val * 16 / 32)) 4 = true ∧
        (s.mem (placeOf 0 (0x5FE0 + 4 * (n.val * 16 / 32)))).err (offsetOf (0x5FE0 + 4 * (n.val * 16 / 32))) = none) ∧
      (s.core 0).lane 3 2 = 63 ∧ ¬(0x5FE0 + 63 * 16 / 8 < 0x6000) ∧ (s.core 0).lanePoison 3 2 = false) := by decide +kernel

/-- StreamsAndPasses: VRSUM of one element, of none and with a poisoned lane; a scatter that has lost one; a failed pass; a load whose
pass is owed. -/
theorem test_premises_VectorEnds :
    (∀ n : Fin 3,
      let e := { queued (.vrsum (.g 2) 2 ⟨true, .rne, false⟩ (n = 2)) 0 1 with
        out := if n = 1 then [] else [(0, 4, false), (63, 5, n = 2)] }
      e.allGranted = true ∧ e.failed = false ∧ e.lost = none ∧ e.owed = [] ∧ e.out.Pairwise (fun x y => x.1 < y.1) ∧ (user.act 0 1).isSome = true) ∧
    (let e := { queued (.vsct 2 ⟨1, false, 0⟩ 3 .fp16) 0x5FE0 1 with lost := some (0x605E, 2) }
     e.allGranted = true ∧ e.failed = false ∧ e.lost = some (0x605E, 2)) ∧
    { queued (.vadd 1 2 3 ⟨true, .rne, false⟩) 0 1 with failed := true }.allGranted = true ∧
    (let e := { queued (.vld 1 ⟨1, false, 0⟩ false .i8) 0x5FF0 1 with owed := [0] }
     e.held = none ∧ e.got = [] ∧ e.allGranted = true ∧
     ∀ n : Fin 16, (user.mem (placeOf 0 (0x5FF0 + 4 * (n.val * 8 / 32)))).err (offsetOf (0x5FF0 + 4 * (n.val * 8 / 32))) = none) := by decide +kernel

/-- The page of VA 0 of PID 5 at station 3, readable or writable, with a merge code; frame 9. -/
def page (mrg : BitVec 4) (rd wr : Bool) : State :=
  placed.updStation 3 fun x => { x with entries := [⟨5, false, mrg, rd, wr, false, 0, 0, 9, 0, 0⟩] }

/-- GlobalReadEvents: a read at its translating station without an entry, without RD, and with one; at its home; a reply. -/
theorem test_premises_GlobalReadEvents :
    (let g : GlobalRead := ⟨4, who, 8, 1, 0, .gld 4 [2], 0, some 3, none, false, false⟩
     let p : Placed := ⟨3, 1, [9 * 2 ^ 21 + 8], 9, 0, false⟩
     placed.findEntry 3 5 g.va = none ∧ ((page 1 false false).findEntry 3 5 g.va).isSome = true ∧
     ((page 1 true false).findEntry 3 5 g.va).elim false TEntry.rd = true ∧ g.raw = false ∧ { g with raw := true }.raw = true ∧ (∀ chip id, g.dest ≠ .remote chip id) ∧
     mayServe placed { g with at_ := some p } p = true ∧ g.tag = BitVec.ofInt 16 0 ∧ p.code ≠ 8 ∧
     mayServe placed { g with at_ := some p, tag := 5 } p = false ∧ placed.gmem.errs = []) ∧
    (let mark : ReadMark := ⟨4, [2], 9, none⟩
     let s := user.updAct 0 1 fun a => { a with reads := [mark] }
     let y : ReadReply := ⟨4, who, 8, 0, .gld 4 [2], .data [7] false⟩
     let s : State := { s with replies := [y] }
     s.replies = [] ++ y :: [] ∧ (∃ a, s.act y.by_.core y.by_.ctx = some a ∧ mark ∈ a.reads)) :=
  ⟨⟨by decide +kernel, by decide +kernel, by decide +kernel, rfl, rfl, (by intro c i h; cases h), by decide +kernel, by decide +kernel, by decide +kernel, by decide +kernel, by decide +kernel⟩,
   rfl, _, rfl, List.mem_singleton.2 rfl⟩

/-- A far store of one word by context 1. -/
def farOne (place : StorePlace) : FarStore :=
  ⟨.gst, who, 0, 6, 8, [(8, 7)], false, false, 1, 0, none, place, false, none, none, false, 15⟩

/-- FarStoreEvents: without an entry and with a writable one; at home DIRECT, and for the open step: a word that nothing is staged for, and
one that an entry is staged for, of the same code and of another, in conflict, with its count at the limit and below; a notice of a
GSTMC copy that failed; a stall one cycle beyond STALLMAX. -/
theorem test_premises_FarStoreEvents :
    (placed.findEntry 3 5 8 = none ∧ ((page 1 false true).findEntry 3 5 8).elim false (fun e => e.wr && !e.rmt) = true ∧
     placed.stepOfTag 5 0 = some 0) ∧
    (placed.earlierAccess who 0 3 = false ∧ (farOne (.home ⟨3, 8, [8], 9, 0, false⟩)).words = [((8 : BitVec 64), (7 : Word))] ∧
     (farOne (.home ⟨3, 1, [8], 9, 0, false⟩)).pairs = false ∧
     State.stageBytes ((placed.station 3).staging.filter fun e => !e.sump) + 128 ≤ 12 * 2 ^ 20 ∧ (placed.station 3).staging = [] ∧
     expField 7 ≠ 255) ∧
    (∀ wrong full : Bool,
      let e : Stage := ⟨5, 0, 8, if wrong then 6 else 2, .plain (some 3), false, if full then 2 ^ 32 - 1 else 1, wrong && full, 9, 0, false, false⟩
      let s := placed.updStation 3 fun x => { x with staging := [e] }
      (s.station 3).staging = [] ++ e :: [] ∧ (e.pid = 5 ∧ e.step = 0 ∧ e.addr = 8) ∧ (e.code = 2 ↔ wrong = false) ∧
      (e.conflict = true ↔ wrong = true ∧ full = true) ∧ (e.count < 2 ^ 32 - 1 ↔ full = false) ∧
      State.stageBytes ((s.station 3).staging.filter fun e => !e.sump) + 128 ≤ 12 * 2 ^ 20) ∧
    (let p : Pending := ⟨0, 1, 5, 6, 0, none, [0], some (farOne (.translate 3)), []⟩
     let n : Notice := ⟨0, 6, 0, 9, 15⟩
     let s : State := { placed with notices := [n], pending := [p] }
     s.notices = [] ++ n :: [] ∧ p ∈ s.pending ∧ p.chips = [n.chip] ∧ p.cmd = none ∧ s.pending.Nodup ∧ p.store = some (farOne (.translate 3)) ∧
     s.stepOfTag 5 0 = some 0 ∧ 0 < s.nrank 5 ∧ s.chipEntry 5 0 = some n.chip) ∧
    (let st : FarStore := { farOne (.home ⟨3, 1, [8], 9, 0, false⟩) with stalled := true }
     let s : State := { placed.updStation 3 fun x => { x with stallSince := some 0 } with stores := [st], now := 1301 }
     (s.station 3).stallSince = some 0 ∧ s.stores.find? (fun x => x.stalled && State.storeStation x == 3) = some st ∧
     s.stepOfTag st.by_.pid st.by_.tag = some 0 ∧ 1300 * st.stallmax.toNat < s.now ∧ (s.station 3).sumpSent.contains (5, 0) = false) := by
  decide +kernel

theorem test_premises_StepStates :
    stepState placed 5 0xFFFF 3 = .past ∧ stepState (placed.updDomain 5 fun d => { d with abortNow := true }) 5 0 3 = .aborted ∧
    stepState placed 5 0 3 = .open_ 0 true := ⟨rfl, rfl, rfl⟩

/-- StepEvents: core 0 has arrived; the signal at a station, with one staged word, for an abort and without; a station that applies;
the root's commit; a decision for a held step. -/
theorem test_premises_StepEvents :
    (let s := placed.updCore 0 fun k => { k with arrived := [0], joined := some 0 }
     (∀ e ∈ s.domains, ∀ g ∈ e.2.ghosts, g.2.1 ≠ 0) ∧ s.openStep 5 = 0 ∧ (s.domain 5).reported.contains (0, 0) = false ∧
     s.settled 0 5 0 = true ∧ (s.cluster (clusterOf 0)).power = .on) ∧
    (let e : Stage := ⟨5, 0, 64, 2, .plain (some 3), false, 1, false, 0, 0, false, false⟩
     let s := (placed.updDomain 5 fun d => { d with phase := .apply, signalled := true, applying := [7] }).updStation 31 fun x => { x with
       staging := [e] }
     (s.domain 5).phase = .apply ∧ 31 ∉ (s.domain 5).applied ∧ 31 ∉ (s.domain 5).applying ∧ s.entriesOf 31 5 0 = [e] ∧
     s.gmem.errs = [] ∧ (s.domain 5).flips = [] ∧ 7 ∈ (s.domain 5).applying ∧ e.conflict = false) ∧
    (let e : Stage := ⟨5, 0, 9 * 2 ^ 21 + 64, 0, .written, false, 1, false, 9, 12, false, false⟩
     let s := (placed.updDomain 5 fun d => { d with phase := .apply, signalled := true, flips := [9] }).updStation (State.homeOf 9) fun x => { x with
       staging := [e] }
     (s.domain 5).abortNow = false ∧ (s.domain 5).flips = [9] ∧ State.homeOf 9 < 32 ∧ e ∈ s.entriesOf (State.homeOf 9) 5 0 ∧ e.code = 0 ∧
     e.frame = 9) ∧
    ((placed.updDomain 5 fun d => { d with
       phase := .apply, signalled := true, applied := List.range 32, reported := [(0, 2 ^ 23 + 66)] }).mayCommit 5 = true) ∧
    (let q : DecisionReq := ⟨who, 0, false, 5, 0, none⟩
     let s := placed.updDomain 5 fun d => { d with phase := .held, decisions := [q] }
     (∃ d, s.domains = [] ++ (q.pid.toNat, d) :: [] ∧ d.decisions = q :: [] ∧ -1 ≤ d.c ∧ wInt (d.c + 1) = q.step ∧ d.phase = .held) ∧
     q.origin = s.chip) :=
  ⟨by decide +kernel, by decide +kernel, by decide +kernel, by decide +kernel, ⟨_, rfl, rfl, by decide +kernel⟩, rfl⟩

/-- MapEvents: a page of frame 9 at one station, that no entry overlaps; a map record of a process with a member. -/
theorem test_premises_MapEvents :
    (let w : List Word := [0x00C50005, 0, 0, 9, 0, 0, 0, 0]
     let q : MapwReq := ⟨who, 0x00050008, 0, some w, none⟩
     (q.ctl.toNat % 8 = 0 ∧ q.ctl.toNat / 65536 = 5 ∧ (0x00C50005 : Word).toNat % 65536 = 5 ∧ (0x00C50005 : Word).getLsbD 16 = true) ∧
     entryBad placed w = false ∧ namedStations 1 0 = [0] ∧ entryAt placed false (entryOf w) 0 = 0 ∧ (placed.station 0).entries = []) ∧
    (let w : List Word := [0x1000, 0, 0x2000, 0, 2, 7, 0, 3]
     recordBad w = false ∧ placed.anyMember 5 = true ∧ placed.anyMember 6 = false ∧ w.length = 8 ∧ (0x00060002 : Word).toNat % 8 = 2 ∧
     (0x00060002 : Word).toNat / 65536 = 6) := by decide +kernel

/-- GlobalReadEvents: the tags of the steps 0, 1 and the bounds of the range, at C = -1; the step after the next one at a home that has applied
the next; a home without words of earlier steps and with one. -/
theorem test_premises_GlobalReadTags :
    let c := (placed.domain 5).c
    let x : OldWord := ⟨5, 0, 9 * 2 ^ 21 + 8, 4, false⟩
    let s := (placed.updStation 9 fun y => { y with past := [x] }).updDomain 5 fun d => { d with phase := .apply, signalled := true, applied := [9] }
    (∀ n : Fin 4,
      let t : Int := if n = 0 then 0 else if n = 1 then 1 else if n = 2 then c + 1 - 2 ^ 15 else c + 2 ^ 15
      c + 1 - 2 ^ 15 ≤ t ∧ t ≤ c + 2 ^ 15 ∧ ((t ≤ c + 1) ↔ n = 0 ∨ n = 2) ∧ (t = c + 2 ↔ n = 1)) ∧
    9 ∈ (s.domain 5).applied ∧ (s.station 9).past = [x] ∧ ((x.step : Int) < 1 ∧ (0 : Int) ≤ x.step) ∧ (placed.station 9).past = [] := by
  decide +kernel

/-- FarStoreEvents: a copy for another chip on a connection with room, with an earlier access of its context that has still to leave and
without; a poisoned store, a second of LAST, FMAX and FSUM with what is staged; a word of CSUM. -/
theorem test_premises_MoreFarStores :
    (∀ earlier : Bool,
      let a := farOne (.away 66 3)
      let st := { a with kind := .gstmc, born := 5 }
      let s : State := { placed with stores := if earlier then [{ a with born := 4 }, st] else [st] }
      st.from_ = none ∧ st.replay = none ∧ s.earlierAway st.by_ st.born 66 = earlier ∧ (s.conn 66 2).unreachable = false ∧
      (s.conn 66 2).exchanging = false ∧ (s.conn 66 2).waiting = [] ∧ (s.conn 66 2).unacked.length < 1024) ∧
    (∀ n : Fin 3,
      let e : Stage := ⟨5, 0, 8, if n = 0 then 1 else if n = 1 then 4 else 3,
        if n = 0 then .last (some (3, (0, 0, 0, 5))) else if n = 1 then .plain (some 3) else .sum 3 false false false false true,
        false, 1, false, 9, 0, false, false⟩
      e.conflict = false ∧ e.count < 2 ^ 32 - 1 ∧ e.code ≠ 0 ∧ e.code ≠ 7 ∧ expField 7 ≠ 255) := by decide +kernel

/-- StepEvents: a step that is late at its commit; two words of CSUM of which one conflicts. -/
theorem test_premises_MoreStepEvents :
    (let s := placed.updDomain 5 fun d => { d with
       phase := .apply, signalled := true, applied := List.range 32, reported := [(0, 2 ^ 23 + 66), (0, 2 ^ 25 + 1)] }
     s.mayCommit 5 = true ∧ (s.openStep 5, 2 ^ 25 + 1) ∈ (s.domain 5).reported) ∧
    (let e : Stage := ⟨5, 0, 64, 7, .sum 3 false false false false true, false, 1, false, 0, 0, false, false⟩
     let f : Stage := ⟨5, 0, 68, 7, .sum 3 false false false false true, false, 1, true, 0, 0, false, false⟩
     let s := (placed.updDomain 5 fun d => { d with phase := .apply, signalled := true }).updStation 31 fun x => { x with staging := [e, f] }
     s.entriesOf 31 5 0 = [e, f] ∧ (s.domain 5).flips = [] ∧ e.conflict = false ∧ f.conflict = true ∧ f.code ≠ 0 ∧
     f.addr = (if e.addr % 8 < 4 then e.addr + 4 else e.addr - 4)) ∧
    (let k := placed.updCore 0 fun k => { k with arrived := [0] }
     (∀ e ∈ k.domains, ∀ g ∈ e.2.ghosts, g.2.1 ≠ 0) ∧ (0, 0) ∉ (k.domain 5).reported ∧ k.settled 0 5 0 = true ∧ k.openStep 5 = 0) := by
  decide +kernel

/-- MapEvents: a page that nothing deferred overlaps; a change of another page that waits. -/
theorem test_premises_DeferredChange :
    let w : List Word := [0x00C50005, 0, 0, 9, 0, 0, 0, 0]
    let v : List Word := [0x00C50005, 0x200000, 0, 10, 0, 0, 0, 0]
    let s := placed.updDomain 5 fun d => { d with deferred := [.entry [0] (entryOf v) false] }
    (∀ y ∈ (s.domain 5).deferred, ∀ st x rm, y = .entry st x rm → ¬(x.pid = 5 ∧ x.overlaps (entryOf w) = true)) := by
  intro w v s y h st x rm e
  rw [show (s.domain 5).deferred = [.entry [0] (entryOf v) false] by decide +kernel, List.mem_singleton, e] at h
  cases h
  decide +kernel

/-- Cluster 0 with a copy command at the head of its queue. -/
def copying (c : CpCmd) : State := placed.updCluster 0 fun x => { x with cpq := [c] }

/-- CopyEngineEvents: a fill and a get of the last scratchpad line; words that came back for it; deliveries with another key and with
the peer's, for the last window; an ended command; one that has waited 2^20 cycles. -/
theorem test_premises_CopyEngineEvents :
    (∀ op ∈ [CpOp.fill, .get],
      let c := copyCmd op 0 0x100 none
      let s := copying c
      chooseCopy s 0 (s.cluster 0).cpq = some c ∧ clusterOf c.by_.core = 0 ∧ c.nextOff % 128 = 0 ∧ c.nextOff + 128 ≤ 0x80000 ∧
      cpMode c.w = 0 ∧ c.next % 32 = 0 ∧ c.a.toNat % 128 = 0 ∧ cpWin c.w = 0 ∧ c.b1.toNat / 2 ^ 16 < 2 ^ 15) ∧
    (let c := copyCmd .get 0 0x100 none
     (copying c).clusters ≠ [] ∧ ((copying c).cluster 0).cpq.find? (fun c => c.id == 3) = some c) ∧
    (∀ fits : Bool,
      let d := { copyCmd .deliver (15 * 2 ^ 22) 0 none with peerKey := if fits then 1 else 2, lines := [⟨0, [], false⟩], from_ := some (0, 0, 3) }
      let s : State := { placed.updCluster 0 fun x => { x with wins := x.wins.set 15 ⟨4095, 0, true, 0, 0, 0, 0⟩ } with deliveries := [d] }
      let w := (s.cluster 0).wins[cpWin d.w % 16]'(Nat.mod_lt _ (by decide))
      clusterOf d.peer = 0 ∧ ((s.core d.peer).pkey = d.peerKey ↔ fits = true) ∧ d.from_ = some (s.chip, 0, 3) ∧ w.en = true ∧
      d.b1.toNat % 2 ^ 12 + (d.w.toNat / 2 ^ 8 % 2 ^ 12 + 1) ≤ w.nlw.toNat + 1 ∧ d.peer < 40960 ∧ w.base.toNat + w.nlw.toNat + 1 ≤ 4096 ∧ (s.cluster 0).cpq.length < 64) ∧
    (let c := { copyCmd .get 0 0 (some 0x0500000C) with next := 32 }
     c.allIssued = true ∧ c.open_ = 0 ∧ c.op ≠ .deliver ∧ c.hw = some 0x0500000C) ∧
    (let c := { copyCmd .deliver 0 0 (some 0x0500000C) with next := 32, lines := [⟨0, [], false⟩], from_ := some (0, 0, 3) }
     c.op = .deliver ∧ 32 * c.lines.length ≤ c.next ∧ c.open_ = 0 ∧ c.hw = some 0x0500000C ∧ c.from_ = some (placed.chip, 0, 3) ∧
     ((copying c).cluster 0).cpq = [] ++ c :: []) ∧
    (let c := { copyCmd .fst 0x40 0 none with emptySince := some 0 }
     let s : State := { copying c with now := 2 ^ 20 }
     c.allIssued = false ∧ waitsLine s 0 c = true ∧ 0 + 2 ^ 20 ≤ s.now) := by decide +kernel

/-- Cluster 0 with a matrix command at the head of its queue that holds leave; tile 7 takes integers. -/
def matrices (e : MxEntry) : State := placed.updCluster 0 fun x => { x with
  mxq := [e], mxRun := true, tiles := x.tiles.set 7 { x.tiles[7] with mode := 1 } }

/-- MatrixEngineEvents: a die with credit and a request; MXCFG of tile 7; an INT8 product there; one for a floating-point tile; one whose replays are
exhausted; a drain-add with another key and with its peer's; one for tile 7 and for another. -/
theorem test_premises_MatrixEngineEvents :
    (let s := placed.updDie 0 fun d => { d with leaveQ := [0], credit := 10 }
     (s.die 0).leaveQ = 0 :: [] ∧ (s.die 0).warn = false ∧ 0 < s.rate 0 ∧ (s.cluster 0).power = .on ∧
     (min (s.waitingCharge 0) (4096 * s.rate 0) : Nat) ≤ s.credit 0) ∧
    (let x (c : MxCmd) : Cluster := (matrices (.cmd c)).cluster 0
     let c := mxCmd .cfg 0x0F
     let m := mxCmd .mul 0xE007
     let l := mxCmd .ld 0x07
     (x c).mxq = .cmd c :: [] ∧ (x c).mxWait = [] ∧ c.w.toNat / 8 % 4 < 2 ∧ (x c).isQuad (wTile c.w) = false ∧
     wItype m.w = 7 ∧ ((x m).tile (wTile m.w)).mode = 1 ∧ (x m).mxMiss = 0 ∧ (x m).spad.errs = [] ∧ wKx m.w = false ∧
     clusterOf m.by_.core = 0 ∧ State.mxFits (x l) l = false ∧ State.mxFits (x m) m = true ∧ (x m).isQuad (wTile m.w) = false ∧
     ((matrices (.cmd m)).core 0).mxretry.toNat < 16) ∧
    (∀ fits : Bool,
      let a : DrainAdd := ⟨{ mxCmd .dra 0xE0000030 with peerKey := if fits then 1 else 2 }, [[.int 3]], 1, 2⟩
      let s : State := { placed with adds := [a] }
      clusterOf a.cmd.peer = 0 ∧ ((s.core (coreOfCluster 0 0)).pkey = a.cmd.peerKey ↔ fits = true) ∧ (s.cluster 0).mxq.length < 32 ∧
      (s.cluster 0).mxWait = []) ∧
    (∀ fits : Bool,
      let a : DrainAdd := ⟨mxCmd .dra (if fits then 0xE0000030 else 0xC0000030), [[.int 3]], 1, 2⟩
      let x := (matrices (.add a)).cluster 0
      x.mxq = .add a :: [] ∧ wOtype a.cmd.w = 6 ∧ ((x.tile (wPeer a.cmd.w)).mode = 1 ↔ fits = true) ∧ x.mxMiss = 0 ∧
      wFirst a.cmd.w + 0 < 64) := by decide +kernel

/-- CopyEngineEvents: a CPFST and a CPPUT request for the last line of the scratchpad, of a command with one line and with two, in a turn that
defers its writes and in one that does not; a line that comes back; a line of another command that waits to be written. -/
theorem test_premises_CopyRequests :
    (∀ (n : Fin 3) (late : Bool),
      let op : CpOp := if n = 0 then .fst else if n = 1 then .put else .fill
      let c : CpCmd := { copyCmd op (if n = 1 then 0x100 else 0) 0x1000 none with from_ := none }
      let s0 : State := { copying c with cur := (copying c).cur }
      let s := (if late then inLate s0 else s0).updCluster 0 fun x => { x with cpLate := [⟨9, 7, [], none⟩] }
      (s.cluster 0).power = .on ∧ chooseCopy s 0 (s.cluster 0).cpq = some c ∧ clusterOf c.by_.core = 0 ∧ c.lineAt = 0x7FF80 ∧
      (c.lineAt % 128 = 0 ∧ c.lineAt + 128 ≤ 0x80000) ∧ c.views = [] ∧ (s.cluster 0).spad.errs = [] ∧
      (∀ y ∈ (s.cluster 0).cpLate, y.line ≠ c.lineAt / 128) ∧
      (cpMode c.w = 0 ∧ c.next % 32 = 0 ∧ c.a.toNat % 128 = 0 ∧ cpWin c.w = 0 ∧ c.b1.toNat / 2 ^ 16 < 2 ^ 15) ∧
      ((c.next / 32 + 1 < cpLines c.w) ↔ n = 1) ∧ c.peerChip = s.chip ∧ (s.cur.late = true ↔ late = true)) ∧
    (let c := copyCmd .get 0 0x100 none
     let s := (copying c).updCluster 0 fun x => { x with cpLate := [⟨9, 7, [], none⟩] }
     (s.cluster 0).cpq.find? (fun c => c.id == 3) = some c ∧ (List.replicate 32 (5 : Word)).length = 32 ∧
     ∀ y ∈ (s.cluster 0).cpLate, y.line ≠ 0x7FF80 / 128) := by decide +kernel

/-- A cluster whose engine has nothing under way, with one matrix command; its tiles take one mode. -/
def readyFor (c : MxCmd) (mode : BitVec 2) : State := placed.updCluster 0 fun x => { x with
  mxq := [.cmd c], mxRun := true, tiles := x.tiles.map fun t => { t with mode := mode } }

/-- MatrixEngineEvents: products of FP32, FP4, MXFP8, MXINT8 and CF32 with their tiles' modes; a drain and an add of the own cluster. -/
theorem test_premises_Products :
    (∀ n : Fin 5,
      let it : Nat := if n = 0 then 0 else if n = 1 then 5 else if n = 2 then 10 else if n = 3 then 13 else 14
      let c := mxCmd .mul (w32 (4 + it * 2 ^ 13))
      let x := (readyFor c (if n = 4 then 2 else 0)).cluster 0
      wItype c.w = it ∧ wTile c.w = 4 ∧ wKx c.w = false ∧ clusterOf c.by_.core = 0 ∧ x.mxRun = true ∧ x.mxMiss = 0 ∧ x.spad.errs = [] ∧
      x.mxViews = [] ∧ x.mxDone = none ∧ x.mxWait = [] ∧ (x.tile 4).mode = (if n = 4 then 2 else 0) ∧ (n = 4 → x.isQuad 4 = true)) := by
  decide +kernel

/-- MatrixEngineEvents: a load and drains of the last row, of a real tile and of a quadruple, whose writes go to different words, in a turn that
defers them and in one that does not; a drain-add. -/
theorem test_premises_RowCommands :
    (∀ (wide late : Bool) (n : Fin 3),
      let w : Word := w32 (4 + (if wide then 14 else 0) * 2 ^ 3 + 63 * 2 ^ 17)
      let c : MxCmd := { mxCmd (if n = 0 then .ld else if n = 1 then .dr else .dra) w with a1 := 0x10 }
      let s0 := readyFor c (if wide then 2 else 0)
      let s := if late then inLate s0 else s0
      let x := s.cluster 0
      (n = 2 → wide = false) → x.mxq = .cmd c :: [] ∧ x.mxRun = true ∧ x.mxMiss = 0 ∧ x.spad.errs = [] ∧ x.mxViews = [] ∧ x.mxDone = none ∧
      State.mxFits x c = true ∧ c.rnd ≠ .sr ∧ wRows c.w = 1 ∧ (wOtype c.w = 14 ↔ wide = true) ∧ (s.cur.late = true ↔ late = true)) ∧
    (∀ i, i < 128 → ∀ i', i' < 128 → rowWordAt 0 0x10 0 i = rowWordAt 0 0x10 0 i' → i = i') ∧ outFmt 0 = .fp32 := by decide +kernel

/-- MatrixEngineEvents: an add that its own cluster holds its engine for, and one of another's; floating-point values of an add. -/
theorem test_premises_DrainAdds :
    (∀ same : Bool,
      let c : MxCmd := { mxCmd .dra 0 with by_ := { who with core := if same then 0 else 4 } }
      let a : DrainAdd := ⟨c, [[.fp (.fin true 3 (-149)), .fp .nan]], 1, 2⟩
      let own := if same then 0 else 1
      let s : State := { ((readyFor c 0).updCluster own fun x => { x with mxq := [.cmd c], mxDone := some .transfer }) with adds := [a] }
      clusterOf c.by_.core = own ∧ clusterOf a.cmd.peer = 0 ∧ (s.cluster own).mxDone = some .transfer ∧ (s.cluster own).mxq = .cmd a.cmd :: [] ∧
      (s.cluster own).mxWait = [] ∧ wOtype c.w = 0 ∧ ((s.cluster 0).tile (wPeer c.w)).mode = 0 ∧
      a.rows[0]? = some [.fp (.fin true 3 (-149)), .fp .nan] ∧ (s.cluster 0).mxq.length < 32) := by decide +kernel

/-- A launch record of PID 5: one cluster, LBASE 0, an image of one parcel. -/
def launchRecord (save : Word) : List Word :=
  [5, 0, 0, 0, 0, 0, 1, 0, 0, 0, 0, 0, 1, 0x100, 0, 0, 0x80000000, 1, 0, save, 0, 0, 0, 0, 0, 0, 0, 0, 0, 0, 0, 0]
/-- A launch message, and a request to the distributor with a code, from LCORE 7 of rank 0. -/
def order (kind : Nat) (code : Nat) (body : List Word) : Msg :=
  { Msg.blank with dcore := 0xFFFF, kind := BitVec.ofNat 4 kind, entry := BitVec.ofNat 16 code, pid := 5, score := 7, nw := 4, body := body }
/-- A distributor that holds a queued and a placed launch. -/
def holding (m : Msg) (q p : List Launch) : State := { placed with dist := { placed.dist with inbox := [m], queue := q, placed := p } }

/-- LaunchEvents: a record line that cannot be read, one that can and is well formed; requests without and with an issuer's launch, and of
an ordinary and a supervisor process. -/
theorem test_premises_LaunchRequests :
    (let m := order 5 0 [0x80, 0, 0x80000000, 0]
     let s := holding m [] []
     (m.pay 2).getLsbD 31 = true ∧ m.kind = 5 ∧ (s.distLine m.pid m.stag (m.pay 1 ++ m.pay 0)).2 = .fail 1 ∧
     (launchOf (launchRecord 0) m).malformed = false ∧ (launchOf (launchRecord 0) m).runs = m.pid ∧ s.mapValid 5 = true) ∧
    (let s := (holding (order 5 0 [0x80, 0, 0x80000000, 0]) [] []).updStation (State.stationOf 0 0x80) fun x => { x with
       entries := [⟨5, false, 1, true, false, false, 0, 0, 9, 0, 0⟩] }
     (s.distLine 5 0 0x80).2 = .done (List.replicate 32 0) ∧ (s.distLines 5 0 0 0).2 = .done []) ∧
    (let l := { launchOf (launchRecord 0x100000) (order 5 0 []) with id := 4, clusters := [0], left := [0] }
     let m := order 0 2 [4, 0, 0, 0]
     let s := holding m [] [l]
     s.issuerLaunch m = some (l, 0) ∧ l.preempting = false ∧ l.clusters[0]? = some 0 ∧ (s.cluster 0).drain = none ∧ l.left = [0] ∧
     (holding m [] []).issuerLaunch m = none ∧ s.isSup 5 = true ∧ s.isSup 6 = false ∧ s.named m = some l ∧ l.preemptible = true ∧
     s.undrained l = [0] ∧ (holding m [l] []).named m = some l ∧ l ∈ (holding m [l] []).dist.queue ∧
     (∀ x ∈ s.dist.queue, x.id ≠ l.id)) := by decide +kernel

/-- LaunchEvents: a head that fits a free cluster; one that does not, with a victim of a lower level; drains in phases 1, 4 and 6. -/
theorem test_premises_Placements :
    (let l := launchOf (launchRecord 0) (order 5 0 [])
     let s := ((holding (order 5 0 []) [l] []).updCluster 4 fun x => { x with power := .on, reportedFree := true }).updStation
       (State.stationOf 0 0) fun x => { x with entries := [⟨5, false, 1, true, false, false, 0, 0, 9, 0, 0⟩] }
     s.headLaunch = some l ∧ l.gone = [] ∧ l.images = [] ∧ pickClusters l s.freeClusters = some [4] ∧ [4].Nodup ∧ s.dist.placed.length < 65535 ∧
     (s.distLines l.runs (BitVec.ofInt 16 ((s.domain l.runs).c + 1)) (l.va 4) ((2 * l.npar + 127) / 128)).2 = .done (List.replicate 32 0)) ∧
    (let v := { launchOf (launchRecord 0x100000) (order 5 0 []) with id := 4, clusters := [0], left := [0] }
     let h := launchOf (launchRecord 0 |>.set 0 0x00010005) (order 5 0 [])
     let s := holding (order 5 0 []) [h] [v]
     let more := (s.dist.placed.filter fun l => l.preemptible && decide (l.prio < h.prio)).flatMap s.undrained
     let free := s.clusters.filterMap fun e => if s.isFree e.1 then some e.1 else none
     let soon := free ++ s.dist.placed.flatMap fun l => l.left.filter fun c => (s.cluster c).drain.isSome
     s.headLaunch = some h ∧ pickClusters h soon = none ∧ (pickClusters h (soon ++ more)).isSome = true ∧ s.nextVictim h.prio = some v) ∧
    (∀ n ∈ [1, 4, 6],
      let d : Drain := ⟨n, false, []⟩
      let v := { launchOf (launchRecord 0) (order 5 0 []) with id := 0, clusters := [0], left := [0] }
      let s := (holding (order 5 0 []) [] [v]).updCluster 0 fun x => { x with drain := some d }
      (s.cluster 0).drain = some d ∧ (s.cluster 0).placed = some (0, 0) ∧ (∃ l ∈ s.dist.placed, l.id = 0) ∧ (s.cluster 0).power = .on) := by
  decide +kernel

/-- PowerEvents: clusters 5119 and 5120, a transition and none, a placed cluster and a free one, one at rest and one not; the temperatures and
budgets at which the clauses meet are all values of their types. -/
theorem test_premises_PowerEvents :
    (5119 < 5120 ∧ 5120 ≤ 5120) ∧ (placed.cluster 0).trans = none ∧ (placed.cluster 0).placed.isSome = true ∧
    (∀ c ∈ coresOf 0, (placed.core c).ret = false) ∧ (placed.cluster placed.host.clu.toNat).trans = none ∧
    (let s := placed.updCore 0 fun k => { k with ret := true }
     (s.cluster 0).placed.isSome = true ∧ ∃ c ∈ coresOf 0, (s.core c).ret = true) ∧ (placed.cluster 5119).placed = none ∧
    (let s := placed.updCluster 0 fun x => { x with trans := some (.leave .idle) }
     (s.cluster 0).trans.isSome = true ∧ s.stopped 0 = true) ∧
    (let s := runsIn false 1 |>.updCluster 0 fun x => { x with trans := some (.leave .off) }
     s.stopped 0 = false) ∧
    (∀ n ∈ [899, 4201], n % 2 ^ 13 < 900 ∨ 4200 < n % 2 ^ 13) ∧ (∀ n ∈ [900, 4200], 900 ≤ n % 2 ^ 13 ∧ n % 2 ^ 13 ≤ 4200) := by
  decide +kernel

/-- FabricEvents: a frame with a message for LCORE 7 of PID 5 on a port that is up, with the next number; a connection with one packet, sent
16 µs before. -/
theorem test_premises_FabricEvents :
    (let m : Msg := { Msg.blank with pid := 5, goal := 7 }
     let f : Frame := ⟨17, 66, 0, 1, 1, 0, false, false, true, .msg m⟩
     let s : State := { placed with frames := [f], links := BitVec.allOnes 18, recvs := [⟨66, 0, 0, []⟩] }
     s.links.getLsbD f.port.val = true ∧ placed.links.getLsbD f.port.val = false ∧ f.encrypted = (s.portSet f.port).encrypt ∧
     f.ptype = f.pkt.ptype ∧ f.cls = f.pkt.cls ∧ s.recvs.find? (fun r => r.chip == f.chip && r.cls == f.cls) = some ⟨66, 0, 0, []⟩ ∧
     f.seq = 0 + 1 ∧ m.copy = none ∧ m.goal ≠ 0xFFFF ∧ s.gmem.errs = [] ∧
     (let g : Frame := ⟨17, 66, 3, 1, 1, 6, false, false, true, .exchange 0 true 5⟩
      g.ptype = g.pkt.ptype ∧ g.cls = g.pkt.cls ∧ Packet.cls (.exchange 0 false 5) = 3 ∧ Packet.ptype (.exchange 0 false 5) = 6) ∧
     (let c : Conn := ⟨66, 0, 9, [], [], false, [(9, none)]⟩
      ({ placed with conns := [c] } : State).conn 66 0 = c ∧ c.exchanging = true) ∧ s.mapValid m.pid = true ∧ s.coreOfL m.pid m.goal.toNat = some (131, 1) ∧
     s.host.hsecerr ≠ 0xFFFFFFFF ∧ s.host.hdrop ≠ 0xFFFFFFFF) ∧
    (let x : Unacked := ⟨0, 8, 0, false, .ack⟩
     let c : Conn := ⟨66, 0, 1, [x], [], false, []⟩
     let s : State := { placed with conns := [c], now := 20800 }
     s.conn 66 0 = c ∧ c.unacked.find? (fun x => decide (20800 ≤ s.now - x.sentAt)) = some x ∧
     (∀ y ∈ (placed.conn 66 0).unacked, placed.now - y.sentAt < 20800) ∧ x.resends % 8 = 0 ∧
     (let d := { c with waiting := [.ack] }
      d.exchanging = false ∧ d.unacked.length ≤ 1024 ∧ x ∈ d.unacked) ∧ placed.links = 0 ∧ ({ placed with links := 1 } : State).links ≠ 0 ∧
     (let y : Unacked := ⟨0, 8, 0, false, .report 5 0 false true⟩
      (({ placed with conns := [⟨66, 3, 1, [y], [], false, []⟩] } : State).conn 66 3).unacked = [y] ∧ placed.hostRecs.length < 1024)) ∧
    (let s : State := { placed with conns := [⟨66, 0, 1, [], [], true, []⟩] }
     s.conns.filter (fun c => c.chip == 66 && c.unreachable) = [⟨66, 0, 1, [], [], true, []⟩] ∧ (s.conn 66 3).unacked.length < 1024 ∧
     (s.conn 66 3).exchanging = false) ∧
    (placed.portSet 0).encrypt = false ∧ { placed with hostRecs := [[0]] }.hostRecs ≠ [] := by decide +kernel

/-- HostEvents: frames of the host port with a message, a read and a write; the stages of boot, quotas at their limits, a map record, a
nonce. The signature of an image is uninterpreted (assumption 13): either it verifies or it does not. -/
theorem test_premises_HostEvents :
    (∀ x ∈ [(Packet.control 4 none, 7, (3 : Fin 4)), (.control 1 (some 3), 7, 3), (.msg (mail 0 1), 0, 0)],
      let f : Frame := ⟨18, 0, x.2.2, 0, 1, x.2.1, false, false, true, x.1⟩
      let s : State := { placed with turns := [.frame f], host := { placed.host with booted := true } }
      let u : State := { turnStart (some (.frame f)) s with turns := [] }
      f.encrypted = (u.portSet 18).encrypt ∧ f.ptype = f.pkt.ptype ∧ f.cls = f.pkt.cls ∧ f.ptype < 8 ∧ u.host.booted = true ∧
      (mail 0 1).dchip = u.chip ∧ u.host.hsecerr ≠ 0xFFFFFFFF ∧ u.host.hdrop ≠ 0xFFFFFFFF ∧
      (let m := { mail 0 1 with dchip := 66 }
       (u.conn m.dchip m.connClass).unreachable = false ∧ (u.conn m.dchip m.connClass).exchanging = false ∧
       (u.conn m.dchip m.connClass).unacked.length < 1024)) ∧
    (State.reset.host.stage = 1 ∧ ({ State.reset with host := { State.reset.host with stage := 4 } } : State).host.stage = 4) ∧
    (∀ a b : List Byte × List Byte,
      ({ State.reset.host with stage := 3, images := [some a, some b] } : HostRegs).images = [some a, some b]) ∧
    bootRecordOk [0x1000, 0, 0x2000, 0, 2, 7, 0, 3] = true ∧ (List.replicate 32 (0 : Byte)).length = 32 ∧ State.reset.host.booted = false ∧
    State.reset.hostReg 0x11 ≠ none ∧ (2 ^ 34 ≤ 2 ^ 34 ∧ 2 ^ 34 < 2 ^ 34 + 1 ∧ 2 ^ 36 ≤ 2 ^ 36) ∧
    ∀ image sig, Config.imageSignatureOk image sig = false ∨ Config.imageSignatureOk image sig = true := by
  refine ⟨by decide +kernel, by decide, fun a b => rfl, by decide, by decide, by decide, by decide, by decide, fun i g => ?_⟩
  cases Config.imageSignatureOk i g
  · exact .inl rfl
  · exact .inr rfl

/-- PowerEvents: a command for another cluster than the one in transition that HCLCMD names; a cluster at rest that has stood still since an
earlier cycle, and one that begins to wake. -/
theorem test_premises_MorePower :
    (let s := placed.updCluster 0 fun x => { x with trans := some .wake }
     s.host.clu = 0 ∧ (s.cluster s.host.clu.toNat).trans.isSome = true ∧ (s.cluster 7).trans = none) ∧
    (let s : State := { (placed.updCluster 7 fun x => { x with power := .idle, stoppedAt := some 5, trans := some .wake }) with now := 9 }
     (s.cluster 7).trans = some .wake ∧ (∀ a, (s.cluster 7).stoppedAt = some a → a ≤ s.now)) := by
  refine ⟨by decide +kernel, by decide +kernel, ?_⟩
  intro a h
  cases h
  decide

/-- A command of the service thread for LCORE 7, of class 0 or 1, with a number. -/
def command (cls : Bool) (n : Word) : Msg :=
  { mail 0 0 with kind := 3, ans := cls, goal := 7, dchip := 66, seq := n }

/-- FabricEvents: a command behind an earlier one of the other class and behind none; a held packet of a connection and one that has been sent,
before and after the end of boot; the answer of an exchange; a full connection for HUNREACH. HostEvents: a message that
leaves for another chip. -/
theorem test_premises_MoreFabric :
    (∀ behind : Bool,
      let x : Unacked := ⟨3, 0, 0, false, .msg (command false 4)⟩
      let c : Conn := ⟨66, 1, 1, [⟨0, 0, 0, false, .ack⟩], [.msg (command true 5)], false, []⟩
      let s : State := { placed with conns := [c, ⟨66, 0, 1, if behind then [x] else [], [], false, []⟩] }
      s.conn 66 1 = c ∧ s.mustFollow 66 1 (.msg (command true 5)) = behind ∧ c.exchanging = false ∧ c.unacked.length ≤ 1024) ∧
    (∀ booted : Bool,
      let s : State := { placed with
        host := { placed.host with booted := booted }
        conns := [⟨66, 0, 1, [⟨0, 0, 0, true, .ack⟩, ⟨1, 0, 0, false, .ack⟩], [], false, []⟩] }
      s.host.booted = booted ∧ s.links = 0 ∧ (s.conns.map fun c => (c.chip, c.cls)).Nodup) ∧
    (let c : Conn := ⟨66, 0, 9, [], [], true, [(9, none)]⟩
     let s : State := { placed with conns := [c] }
     (s.conn 66 0).learned = (9, none) :: [] ∧ (s.conn 66 0).waiting = [] ∧ (s.conn 66 3).waiting = []) ∧
    (∀ n : Fin 3,
      let x : Unacked := ⟨0, if n = 0 then 6 else if n = 1 then 7 else 9, 0, false, .ack⟩
      (x.resends < 7 ↔ n = 0) ∧ (x.resends = 7 ↔ n = 1) ∧ (x.resends % 8 ≠ 0)) ∧
    (let m := command false 4
     let c := placed.conn m.dchip m.connClass
     m.dchip ≠ placed.chip ∧ c.unreachable = false ∧ c.exchanging = false ∧ c.waiting = [] ∧ c.unacked.length < 1024 ∧
     placed.mustFollow m.dchip m.connClass (.msg { m with copy := none, dcore := 0, dkey := 0 }) = false) := by decide +kernel

/-- LoadResults, ContextEvents: a load of each width and an LDD that defer, at the end of the scratchpad; the second of two loads, of one
word and of two, on a line with poison and without; a release with one load. -/
theorem test_premises_LateLoads :
    (∀ n ∈ [4, 2, 1],
      let s := inLate (withP user 0x17FFFC)
      let u := (operandsPlain { dst := .r (.g 1) } s).2
      let a := (u.ea ⟨1, false, 0⟩ n).toNat
      issuesPlain { dst := .r (.g 1) } s = true ∧ s.cur.late = true ∧ 0x100000 ≤ a ∧ unviewed u 0 1 a = true ∧
      loadable (settledFor u 0 1 a) 0 a n = true) ∧
    (let s := inLate (withP user 0x17FFF8)
     let a := (s.ea ⟨1, false, 0⟩ 8).toNat
     issuesPlain { dst := .p (.even 1) } s = true ∧ a % 8 = 0 ∧ localOk a 8 = true ∧ 0x100000 ≤ a ∧ unviewed s 0 1 a = true ∧
     unviewed s 0 1 (a + 4) = true ∧ loadable (settledFor s 0 1 a) 0 a 4 = true ∧
     loadable (settledFor (settledFor s 0 1 a) 0 1 (a + 4)) 0 (a + 4) 4 = true ∧
     loadable (settledFor s 0 1 (a + 4)) 0 (a + 4) 4 = true) ∧
    (∀ same spoilt : Bool,
      let x : LateLoad := ⟨0x100004, 0, .word, .g 3, 9⟩
      let s : State := { ((user.updCtx 0 1 fun y => { y with
        lateLoads := [⟨if same then 0x100004 else 0x100000, 0, .word, .g 2, 8⟩, x] }).setLocalSide 0 0x100004 ⟨false, spoilt⟩) with
        turns := [.perform 0 1 1] }
      let u : State := { turnStart (some (.perform 0 1 1)) s with turns := [] }
      let l := (u.ctx 0 1).lateLoads
      (u.ctx 0 1).undo = none ∧ 1 = (u.ctx 0 1).lateStores.length + 1 ∧ l[1]? = some x ∧
      ((∃ y ∈ l.take 1, y.addr = x.addr) ↔ same = true) ∧ u.poisoned 0 x.addr = spoilt ∧
      (u.mem (placeOf 0 x.addr)).err (offsetOf x.addr) = none) ∧
    (let x : LateLoad := ⟨0x17FFFC, 3, .byte, .g 3, 9⟩
     let s := user.updCtx 0 1 fun y => { y with lateLoads := [x] }
     (s.ctx 0 1).lateLoads = [x] ∧ x.dst = .g 3 ∧ s.poisoned 0 x.addr = false ∧
     (s.mem (placeOf 0 x.addr)).err (offsetOf x.addr) = none) := by decide +kernel

/-- ContextEvents: the second operand of an element of SADD in TCM, the first of which has been read; a result for a port with a neighbour
and without; a release without an entry that waits, and one that a vector load before it holds up. -/
theorem test_premises_MoreContextEvents :
    (let q : StreamRun := ⟨1, .sadd, 2, 0, 1, .int false, 3, 4, 0, 11, 0, 0, []⟩
     let s : State := { (user.updCore 0 fun k => { k with stream := some q }).updCtx 0 1 fun x => { x with
       pa := (x.pa.set 0 0x5FFC).set 1 0x5FF8, views := [⟨0x5FFC, 1, false⟩] } with turns := [.readAhead 0 1 0x5FF8] }
     let u : State := { turnStart (some (.readAhead 0 1 0x5FF8)) s with turns := [] }
     let x := u.ctx 0 1
     (u.core 0).stream = some q ∧ q.ctx = 1 ∧ q.sources.map (fun p => (x.pa[p]).toNat) = [0x5FFC] ++ 0x5FF8 :: [] ∧
     (∀ b ∈ [0x5FFC], 0x100000 ≤ b ∨ ∃ y ∈ x.views, y.addr = b) ∧ (∀ y ∈ x.views, y.addr ≠ 0x5FF8) ∧ x.lateStores = [] ∧
     x.lateLoads = [] ∧ (u.mem (placeOf 0 0x5FF8)).err (offsetOf 0x5FF8) = none ∧ (u.act 0 1).isSome = true) ∧
    (neighbour 0 .e = some 1 ∧ neighbour 0 .w = none ∧
     ((user.updCore 0 fun k => { k with iter := some ⟨1, .port .e, 4, 1, 10⟩ }).core 0).iter = some ⟨1, .port .e, 4, 1, 10⟩) ∧
    (let s := placed.updCtx 0 1 fun x => { x with waiting := [[]] }
     (s.ctx 0 1).handing = [] ∧ s.act 0 1 = none ∧ (s.ctx 0 1).waiting = [] :: [] ∧ s.releaseWaits 0 1 = false ∧
     (let u := s.updCore 0 fun k => { k with
        vq := [⟨.vld 1 ⟨0, false, 0⟩ false .fp32, 1, 10, 16, 0, none, 0, 0, [], [], 0, none, false, [], []⟩] }
      ∃ e ∈ (u.core 0).vq, e.ctx = 1 ∧ e.after = 0 ∧ memPending e = true)) := by decide +kernel

/-- MessageArrivals: a relocatable call for a core of an OFF cluster whose kept buffer has reached CLTHR. Barriers: a port as d.
StreamsAndPasses: a VRSUM and a VMVG that failed their check, with a poisoned lane and without. -/
theorem test_premises_Corners :
    (let s := (placed.updCluster 0 fun x => { x with power := .off, clthr := 1 }).updCore 0 fun k => { k with
       buf := [⟨mail 0 1, 1, none, false⟩] }
     (s.cluster (clusterOf 0)).power = .off ∧ ({ mail 0 1 with rel := true }).dkey = (s.core 0).pkey) ∧
    (∀ i ∈ [Instr.bara (.port .e) 3, .barw (.port .n) 15, .bari (.port .s) 0], decode (encode i ++ [7]) = .error .badRegister) ∧
    (∀ bad : Bool,
      let e := { queued (.vrsum (.g 2) 2 ⟨true, .rne, false⟩ false) 0 1 with failed := true }
      let f := { queued (.vmvg (.g 3) 2 (.g 1)) 63 1 with failed := true }
      let s := user.updCore 0 fun k => { k with vq := [e], vpoison := k.vpoison.set 2 (if bad then BitVec.twoPow 64 63 ||| 8 else 0) }
      e.allGranted = true ∧ f.allGranted = true ∧ (s.act 0 1).isSome = true ∧ 3 < e.vl ∧ (s.core 0).lanePoison 2 3 = bad ∧
      (∀ j, j < 3 → (s.core 0).lanePoison 2 j = false) ∧ (bad = false → ∀ n, n < e.vl → (s.core 0).lanePoison 2 n = false) ∧
      f.x.toNat < 64 ∧ (s.core 0).lanePoison 2 (f.x.toNat % 64) = bad) := by decide +kernel

/-! ### Launches with an image, and drains -/

/-- A launch of PID 5 with a save area, a supervisor entry and an image of its one cluster. -/
def imaged : Launch :=
  { launchOf ((launchRecord 0x100000).set 18 0x00010010) (order 5 0 []) with
    saved := true, images := [(0, ⟨(coresOf 0).map placed.core, placed.cluster 0, 7⟩)] }

/-- The page of VA 0 of PID 5, readable and writable, in frame 9. -/
def frame9 : TEntry := ⟨5, false, 1, true, true, false, 0, 0, 9, 0, 0⟩

/-- Station 0 maps that page. -/
def mapped (s : State) : State := s.updStation 0 fun x => { x with entries := [frame9] }

theorem test_selector (va : BitVec 64) (h : va.toNat < 2 ^ 30) : State.selectorOf va = 0 := by
  have z (n : Nat) (hn : 30 ≤ n) : (va &&& 0x1FFFFFFFFFFFFF).extractLsb' n 2 = 0 := by
    apply BitVec.eq_of_toNat_eq
    have l : (va &&& 0x1FFFFFFFFFFFFF).toNat < 2 ^ n := by
      refine lt_of_le_of_lt ?_ (lt_of_lt_of_le h (Nat.pow_le_pow_right (by decide) hn))
      rw [BitVec.toNat_and]; exact Nat.and_le_left
    rw [BitVec.extractLsb'_toNat, Nat.shiftRight_eq_div_pow, Nat.div_eq_of_lt l]; rfl
  have y (l : List Nat) : l.foldl (fun (x : BitVec 2) i => x ^^^ (va &&& 0x1FFFFFFFFFFFFF).extractLsb' (30 + 2 * i) 2) 0 = 0 := by
    induction l with
    | nil => rfl
    | cons i r ih => rw [List.foldl_cons, z _ (by omega)]; exact ih
  unfold State.selectorOf
  rw [y]; rfl

/-- Every line of the image lies in the mapped page, one after another. -/
theorem test_image_lines (s : State) (l : Launch) (hs : (s.station 0).entries = [frame9]) (hf : s.inSump 9 = false)
    (hl : l.save = 0x100000) (hp : l.runs = 5) (n : Nat) (hn : n < 6976) :
    s.imagePlace l 0 n = some (.here (State.homeOf 9) (9 * 2 ^ 21 + 0x100000 + 128 * n)) := by
  have hv : (State.imageVa l 0 n).toNat = 0x100000 + 128 * n := by
    rw [State.imageVa, hl, BitVec.toNat_add, BitVec.toNat_ofNat, show (0x100000 : BitVec 64).toNat = 0x100000 from rfl]
    omega
  generalize hva : State.imageVa l 0 n = va at hv
  have ho : (va.extractLsb' 0 21).toNat = 0x100000 + 128 * n := by
    rw [BitVec.extractLsb'_toNat, hv, Nat.shiftRight_zero]; omega
  have h21 : va.extractLsb' 21 32 = 0 := by
    apply BitVec.eq_of_toNat_eq
    rw [BitVec.extractLsb'_toNat, hv, Nat.shiftRight_eq_div_pow, Nat.div_eq_of_lt (by omega)]; rfl
  have h53 : va.extractLsb' 53 11 = 0 := by
    apply BitVec.eq_of_toNat_eq
    rw [BitVec.extractLsb'_toNat, hv, Nat.shiftRight_eq_div_pow, Nat.div_eq_of_lt (by omega)]; rfl
  have hoff : frame9.offset va = 0x100000 + 128 * n := ho
  have hcov : frame9.covers va = true := by
    show (va.extractLsb' 53 11 == 0 && (0 : Word) == va.extractLsb' 21 32) = true
    rw [h21, h53]; rfl
  have hlost : s.frameLost frame9 va = false := by
    show (s.inSump (9 + frame9.offset va / 2 ^ 21) || (false && _)) = false
    rw [hoff, Nat.div_eq_of_lt (by omega), Nat.add_zero, hf]; rfl
  have hfind : s.findEntry 0 5 va = some frame9 := by
    unfold State.findEntry
    rw [hs, List.find?_cons_of_pos]
    rw [hcov, hlost]; rfl
  have hphys : frame9.phys va = 9 * 2 ^ 21 + 0x100000 + 128 * n := by
    show 2 ^ 21 * 9 + frame9.offset va = _
    rw [hoff]; omega
  have hhome : (frame9.place [va]).home = State.homeOf 9 := by
    show State.homeOf (frame9.phys va / 2 ^ 21) = _
    rw [hphys]; congr 1; omega
  show (s.findEntry (State.stationOf 0 (State.imageVa l 0 n)) l.runs (State.imageVa l 0 n)).map _ = _
  rw [hva, hp, State.stationOf, test_selector va (by omega), hfind]
  show some (State.ImagePlace.here (frame9.place [va]).home (frame9.phys va)) = _
  rw [hhome, hphys]

/-- An image whose lines lie on this chip has been fetched. -/
theorem test_fetch (s : State) (l : Launch) (j : Nat) (h : ∀ n, n < 6976 → ∃ k a, s.imagePlace l j n = some (.here k a)) :
    s.fetchImage l j = (s, .done []) := by
  unfold State.fetchImage
  have go (r : List Nat) (hr : ∀ n ∈ r, n < 6976) : r.foldl (fun (x : State × LineRun) n =>
      match x.2, x.1.imagePlace l j n with
      | .done _, some (.away _ _) =>
        let (s, r) := x.1.distRead true l.runs (x.1.imageTag l) (State.imageVa l j n)
        (s, match r with | .done _ => .done [] | r => r)
      | .done _, none => (x.1, .fail 1)
      | _, _ => x) (s, .done []) = (s, .done []) := by
    induction r with
    | nil => rfl
    | cons n r ih =>
      obtain ⟨k, a, ha⟩ := h n (hr n (List.mem_cons_self ..))
      rw [List.foldl_cons]
      simp only [ha]
      exact ih fun m hm => hr m (List.mem_cons_of_mem _ hm)
  exact go _ fun n hn => List.mem_range.1 hn

/-- The state in which the launch with an image is placed on cluster 4. -/
def replacing : State :=
  mapped ((holding (order 5 0 []) [imaged] []).updCluster 4 fun x => { x with power := .on, reportedFree := true })

theorem test_replacing_lines (n : Nat) (hn : n < 6976) :
    replacing.imagePlace imaged 0 n = some (.here (State.homeOf 9) (9 * 2 ^ 21 + 0x100000 + 128 * n)) :=
  test_image_lines replacing imaged (by decide +kernel) (by decide +kernel) (by decide +kernel) (by decide +kernel) n hn

/-- A launch with one image, which has been fetched. -/
theorem test_fetch_one (s : State) (l : Launch) (j : Nat) (im : Saved) (F : State → Launch → Nat → State × LineRun)
    (hF : State.fetchImage = F) (h : l.images = [(j, im)]) (hf : F s l j = (s, .done [])) : s.fetchImages l = (s, some l) := by
  unfold State.fetchImages
  rw [hF, h]
  simp only [List.foldl_cons, List.foldl_nil, hf]

theorem test_replacing_fetched : replacing.fetchImages imaged = (replacing, some imaged) :=
  test_fetch_one replacing imaged 0 ⟨(coresOf 0).map placed.core, placed.cluster 0, 7⟩ State.fetchImage rfl rfl (test_fetch replacing imaged 0 fun n hn => ⟨_, _, test_replacing_lines n hn⟩)

/-- LaunchEvents: the placement of a launch whose image lies on this chip, and each clause about its lines. -/
theorem test_premises_Restore :
    replacing.headLaunch = some imaged ∧ pickClusters imaged replacing.freeClusters = some [4] ∧
    replacing.dist.placed.length < 65535 ∧ replacing.fetchImages imaged = (replacing, some imaged) ∧
    (replacing.distLines imaged.runs (BitVec.ofInt 16 ((replacing.domain imaged.runs).c + 1)) (imaged.va 4) ((2 * imaged.npar + 127) / 128)).2
      = .done (List.replicate 32 0) ∧
    (4, 0) ∈ ([4].zip (List.range [4].length)).filter (fun x => !imaged.gone.contains x.2) ∧
    imaged.images.find? (fun y => y.1 == 0) = imaged.images.head? ∧ replacing.gmem.errs = [] ∧ imaged.sve = true ∧
    ∀ n, n < 6976 → replacing.imageLine imaged 0 n = some (9 * 2 ^ 21 + 0x100000 + 128 * n) :=
  ⟨by decide +kernel, by decide +kernel, by decide +kernel, test_replacing_fetched, by decide +kernel, by decide, rfl, by decide +kernel,
   by decide +kernel, fun n hn => by rw [State.imageLine, test_replacing_lines n hn]⟩

/-- A placed launch on cluster 0 that drains, in a phase, under save or not; more: it has another cluster that is not freed. -/
def draining (n : Nat) (save more : Bool) : State :=
  mapped ((holding (order 5 0 []) [] [{ imaged with id := 0, clusters := [0, 4], left := if more then [0, 4] else [0], preempting := save }]
    ).updCluster 0 fun x => { x with drain := some ⟨n, save, []⟩ })

/-- LaunchEvents: drains in phases 2, 3 and 5, with each of their outcomes, and in phase 7. -/
theorem test_premises_DrainPhases :
    (∀ n ∈ [2, 3, 5, 7], ∀ save more : Bool,
      let s := draining n save more
      (s.cluster 0).drain = some ⟨n, save, []⟩ ∧ (s.cluster 0).placed = some (0, 0) ∧ (s.cluster 0).power = .on ∧
      (s.dist.placed.find? fun l => l.id == 0) = s.dist.placed.head? ∧ (s.dist.placed.head?).isSome = true ∧
      (∀ c ∈ coresOf 0, ∀ k ∈ [1, 2, 3, 4, 5, 6, 7], (s.ctx c k).isFree = true)) ∧
    (let s := draining 2 true false
     (s.cluster 0).mxq = [] ∧ (s.cluster 0).mxWait = [] ∧ (s.cluster 0).cpWait = [] ∧ (s.cluster 0).trans = none ∧ imaged.sve = true ∧
     s.imageOpen imaged 0 = true ∧ State.drainRuns (copyCmd .put 0 0 none) = false ∧
     ((s.updCtx 0 1 fun x => { x with act := some (actAt true) }).ctx 0 1).isFree = false) ∧
    (let s := draining 3 true false
     let m : Msg := { mail 0 1 with kind := 4, score := 0xFFFF, nw := 1, body := [0] }
     noticePending s 0 0 = false ∧ noticePending { s with net := [m] } 0 0 = true) ∧
    (let s := ((draining 5 true false).updCore 128 fun k => { k with joined := none }).updCore 131 fun k => { k with joined := none }
     0 ∈ coresOf 0 ∧ (∀ c ∈ coresOf 0, c ≠ 0 → (s.core c).joined = none) ∧ (s.core 0).joined ≠ none ∧ s.settled 0 5 0 = true ∧
     ((s.core 0).s.toNat : Int) - 1 ≤ (s.domain 5).c ∧
     (let u := s.updCore 0 fun k => { k with s := 3 }
      (u.domain (u.core 0).pid).c < ((u.core 0).s.toNat : Int) - 1)) ∧
    (let s := (draining 7 false false).updCore 0 fun k => { k with buf := [⟨mail 0 1, 1, none, false⟩] }
     mail 0 1 ∈ s.imageMsgs 0 ∧ s.gmem.errs = [] ∧ s.mapValid 5 = true ∧ (s.mapSv 5).1 ≠ 0xFFFF ∧
     s.resolve 5 (s.mapSv 5).1 (s.mapSv 5).2 = .here 131 1) := by decide +kernel

/-- LaunchEvents: the image of a draining cluster, with an entry for every line and with none. -/
theorem test_premises_Images :
    (∀ n, n < 6976 → (draining 6 true false).imageLine imaged 0 n = some (9 * 2 ^ 21 + 0x100000 + 128 * n)) ∧
    (∀ c ∈ coresOf 0, ((draining 6 true false).mem (.tcm c)).errs = []) ∧ ((draining 6 true false).mem (.spad 0)).errs = [] ∧
    (((draining 6 true false).updStation 0 fun x => { x with entries := [] }).imagePlace imaged 0 0).isNone = true := by
  refine ⟨fun n hn => ?_, by decide +kernel, by decide +kernel, by decide +kernel⟩
  rw [State.imageLine, test_image_lines _ imaged (by decide +kernel) (by decide +kernel) (by decide +kernel) (by decide +kernel) n hn]

/-- MemoryFormKept: every memory at reset, and of a state with global words, and a step from each. -/
theorem test_premises_MemoryFormKept :
    State.reset.gmem.wf ∧ placed.gmem.wf ∧ (∃ t, step State.reset = .next t) ∧ ∃ t, step { user with turns := [.issue 0 1] } = .next t :=
  ⟨by decide, by decide, ⟨_, rfl⟩, ⟨_, rfl⟩⟩

/-! ## Single steps, with results calculated by hand from the rules named -/

/-- R296 to R298: sums wrap at 2^32; differences too; immediates are signed. -/
theorem test_add_wraps : g1 (.add (.g 1) (.g 2) (.g 3)) (withG user [(2, 0xFFFFFFFF), (3, 2)]) = some 1 ∧
    g1 (.sub (.g 1) (.g 2) (.g 2)) (withG user [(2, 7)]) = some 0 ∧ g1 (.sub (.g 1) .zr (.g 3)) (withG user [(3, 1)]) = some 0xFFFFFFFF ∧
    g1 (.addi (.g 1) (.g 2) (-8192)) (withG user [(2, 0x2000)]) = some 0 ∧ g1 (.andi (.g 1) (.g 2) (-256)) (withG user [(2, 0x1234)]) = some 0x1200 := by
  decide +kernel

/-- The low and high halves of a product: (2^32 - 1)^2 = 2^64 - 2^33 + 1; (-1)^2 = 1; (-2^31)^2 = 2^62. -/
theorem test_products : g1 (.mul (.g 1) (.g 2) (.g 2)) (withG user [(2, 0xFFFFFFFF)]) = some 1 ∧
    g1 (.mulhu (.g 1) (.g 2) (.g 2)) (withG user [(2, 0xFFFFFFFF)]) = some 0xFFFFFFFE ∧
    g1 (.mulh (.g 1) (.g 2) (.g 2)) (withG user [(2, 0xFFFFFFFF)]) = some 0 ∧
    g1 (.mulh (.g 1) (.g 2) (.g 2)) (withG user [(2, 0x80000000)]) = some 0x40000000 := by decide +kernel

/-- Order is signed or unsigned as the name says. -/
theorem test_comparisons : g1 (.slt (.g 1) (.g 2) .zr) (withG user [(2, 0xFFFFFFFF)]) = some 1 ∧
    g1 (.sltu (.g 1) (.g 2) .zr) (withG user [(2, 0xFFFFFFFF)]) = some 0 ∧ g1 (.seq (.g 1) (.g 2) (.g 2)) user = some 1 ∧
    g1 (.min (.g 1) (.g 2) .zr) (withG user [(2, 0x80000000)]) = some 0x80000000 ∧
    g1 (.minu (.g 1) (.g 2) .zr) (withG user [(2, 0x80000000)]) = some 0 ∧
    g1 (.max (.g 1) (.g 2) .zr) (withG user [(2, 0x80000000)]) = some 0 ∧
    g1 (.maxu (.g 1) (.g 2) .zr) (withG user [(2, 0x80000000)]) = some 0x80000000 := by decide +kernel

/-- Shifts, counts and logic. -/
theorem test_bits : g1 (.srai (.g 1) (.g 2) 31) (withG user [(2, 0x80000000)]) = some 0xFFFFFFFF ∧
    g1 (.shri (.g 1) (.g 2) 31) (withG user [(2, 0x80000000)]) = some 1 ∧ g1 (.shli (.g 1) (.g 2) 31) (withG user [(2, 3)]) = some 0x80000000 ∧
    g1 (.clz (.g 1) .zr) user = some 32 ∧ g1 (.clz (.g 1) (.g 2)) (withG user [(2, 0x00010000)]) = some 15 ∧
    g1 (.popc (.g 1) (.g 2)) (withG user [(2, 0xF0F00001)]) = some 9 ∧
    g1 (.xor (.g 1) (.g 2) (.g 3)) (withG user [(2, 0xFF00), (3, 0x0FF0)]) = some 0xF0F0 ∧
    g1 (.ori (.g 1) (.g 2) 1) (withG user [(2, 6)]) = some 7 := by decide +kernel

/-- R306's example of 12-bit fields at bit 8, imm 360. -/
theorem test_fields :
    g1 (.bfx (.g 1) (.g 4) 360) (withG user [(4, 0x12345678)]) = some 0x00000456 ∧
    g1 (.bfi (.g 1) (.g 4) 360) (withG user [(1, 0xAAAAAAAA), (4, 0x00000BCD)]) = some 0xAAABCDAA := by decide +kernel

/-- SEL, LDI and LDHI, GETH's first header word. -/
theorem test_moves : g1 (.sel (.g 1) (.g 2) (.g 3)) (withG user [(1, 1), (2, 5), (3, 6)]) = some 5 ∧
    g1 (.sel (.g 1) (.g 2) (.g 3)) (withG user [(1, 0), (2, 5), (3, 6)]) = some 6 ∧ g1 (.ldi (.g 1) (-1)) user = some 0xFFFFFFFF ∧
    g1 (.ldhi (.g 1) 0x1234) (withG user [(1, 0xAAAA5678)]) = some 0x12345678 := by decide +kernel

/-- R319: no trap and no flag for a divisor of 0; R48: the result waits in the iterative unit. -/
theorem test_division :
    (after (exec (.divu (.g 1) (.g 2) (.g 3)) (withG user [(2, 17), (3, 5)])) fun t => ((t.core 0).iter.map IterOp.res, (t.ctx 0 1).g[1])) =
      some (some 3, 0) ∧
    (after (exec (.divu (.g 1) (.g 2) .zr) (withG user [(2, 17)])) fun t => (t.core 0).iter.map IterOp.res) = some (some 0xFFFFFFFF) ∧
    (after (exec (.remu (.g 1) (.g 2) (.g 3)) (withG user [(2, 17), (3, 5)])) fun t => (t.core 0).iter.map IterOp.res) = some (some 2) := by
  decide +kernel

/-- 1 + 1 = 2; 1.5 × 1.5 = 2.25; 1.5 × 1.5 + 1 = 3.25; 2^-24 added to 1 rounds to even, and up under RUP. -/
theorem test_float_arithmetic :
    g1 (.fadd (.g 1) (.g 2) (.g 2) .rne) (withG user [(2, 0x3F800000)]) = some 0x40000000 ∧
    g1 (.fmul (.g 1) (.g 2) (.g 2) .rne) (withG user [(2, 0x3FC00000)]) = some 0x40100000 ∧
    g1 (.ffma (.g 1) (.g 2) (.g 2) .rne) (withG user [(1, 0x3F800000), (2, 0x3FC00000)]) = some 0x40500000 ∧
    g1 (.fadd (.g 1) (.g 2) (.g 3) .rne) (withG user [(2, 0x3F800000), (3, 0x33800000)]) = some 0x3F800000 ∧
    g1 (.fadd (.g 1) (.g 2) (.g 3) .rup) (withG user [(2, 0x3F800000), (3, 0x33800000)]) = some 0x3F800001 := by decide +kernel

/-- R325, R327: comparisons with NaN, the flag NV of FLT, conversions, and 1/2 that rounds to even. -/
theorem test_float_compare_and_convert :
    g1 (.feq (.g 1) (.g 2) (.g 2)) (withG user [(2, 0x7FC00000)]) = some 0 ∧
    (after (exec (.flt (.g 1) (.g 2) (.g 2)) (withG user [(2, 0x7FC00000)])) fun t => (t.ctx 0 1).fflags) ≠ some 0 ∧
    g1 (.fle (.g 1) (.g 2) (.g 3)) (withG user [(2, 0x80000000), (3, 0)]) = some 1 ∧
    g1 (.itof (.g 1) (.g 2) .rne false) (withG user [(2, 0xFFFFFFFE)]) = some 0xC0000000 ∧
    g1 (.ftoi (.g 1) (.g 2) .rne false) (withG user [(2, 0x3F000000)]) = some 0 ∧
    g1 (.ftoi (.g 1) (.g 2) .rup false) (withG user [(2, 0x3F000000)]) = some 1 := by decide +kernel

/-- Stores and loads of the local memory: byte order, sign extension, the pointer's stride. -/
theorem test_memory :
    (after (exec (.stw (.g 2) ⟨1, true, 1⟩) (withG (withP user 0x100) [(2, 0x8899AABB)])) fun t =>
      (t.localWord 0 0x104, (t.mem (.tcm 0)).byte 0x104, (t.ctx 0 1).pa[1])) = some (0x8899AABB, 0xBB, 0x104) ∧
    g1 (.ldh (.g 1) ⟨1, false, 1⟩) ((withP user 0x100).setLocalWord 0 0x100 0x8899AABB) = some 0xFFFF8899 ∧
    g1 (.ldhu (.g 1) ⟨1, false, 1⟩) ((withP user 0x100).setLocalWord 0 0x100 0x8899AABB) = some 0x8899 ∧
    g1 (.ldb (.g 1) ⟨1, false, 2⟩) ((withP user 0x100).setLocalWord 0 0x100 0x8899AABB) = some 0xFFFFFF99 ∧
    g1 (.ldbu (.g 1) ⟨1, false, 3⟩) ((withP user 0x100).setLocalWord 0 0x100 0x8899AABB) = some 0x88 := by decide +kernel

/-- The parcel index after a branch, and lk after a call, at parcel 10. -/
theorem test_branches :
    (after (exec (.br (-4)) user) fun t => (t.act 0 1).map Act.pc) = some (some 6) ∧
    (after (exec (.bz (.g 2) 5) (withG user [(2, 1)])) fun t => (t.act 0 1).map Act.pc) = some (some 11) ∧
    (after (exec (.bnz (.g 2) 5) (withG user [(2, 1)])) fun t => (t.act 0 1).map Act.pc) = some (some 15) ∧
    (after (exec (.call 9) user) fun t => ((t.act 0 1).map Act.pc, (t.ctx 0 1).lk)) = some (some 19, 11) ∧
    (after (exec (.jr (.g 2)) (withG user [(2, 0xFFFF)])) fun t => (t.act 0 1).map Act.pc) = some (some 0xFFFF) := by decide +kernel

/-- The cause of the record for the host after a trap of context 7, in bits 7 to 0 of its first word (R236, R237). -/
def hostCause (i : Instr) : Option (Option Nat) :=
  after (exec i (runsIn false 7)) fun t => t.hostRecs.head?.map fun ws => (ws.getD 0 0).toNat % 256

/-- TRAP raises SWT, 15; BRK 16; a taken branch to parcel -1 ILL, 1; a word load at address 2 ALIGN, 4; one at 0x6000 LADDR, 3. -/
theorem test_trap_causes : hostCause (.trap 3) = some (some 15) ∧ hostCause (.brk 3) = some (some 16) ∧ hostCause (.br (-11)) = some (some 1) ∧
    hostCause (.ldh (.g 1) ⟨0, false, 0x3000⟩) = some (some 3) := by decide +kernel

/-- A context frees itself with END, and its send buffer enters the mesh at a SEAL. -/
theorem test_end_and_seal :
    (after (exec .endAct user) fun t => t.act 0 1) = some none ∧
    (after (exec .seal (fresh.buffer (.msg (mail 0 1)))) fun t => (t.net.length, t.isOpen 0 1)) = some (1, false) := by decide +kernel

/-- A pushed word is on its way to the north neighbour, core 128, whose queue of words from the south takes it (R57). -/
theorem test_port_push :
    (after (exec (.add (.port .n) (.g 2) .zr) (withG user [(2, 7)])) fun t => t.portWords) = some [⟨1025, .s, 7⟩] := by decide +kernel

/-- VADD enters the queue; its pass adds lane by lane; its end writes the lane. -/
theorem test_vector_add :
    let i : Instr := .vadd 1 2 3 ⟨true, .rne, false⟩
    let s := slotted.updCore 0 fun k => { k with lanes := [(128, 4), (192, 0xFFFFFFFF)], vl := 1 }
    (after (exec i s) fun t => (t.core 0).vq.length) = some 1 ∧
    (after (exec i s) fun t => after (exec (.passGrant 0) t) fun u => after (exec (.vectorResultWrite 0) u) fun w => (w.core 0).lane 1 0) =
      some (some (some 3)) := by decide +kernel

/-- NADD gives the old word and stores the sum (R302). -/
theorem test_near_atomic :
    (after (exec (.nadd (.g 1) (.g 2) (.g 3)) ((withG user [(2, 0x100000), (3, 4)]).setLocalWord 0 0x100000 5)) fun t =>
      ((t.ctx 0 1).g[1], t.localWord 0 0x100000)) = some (5, 9) := by decide +kernel

/-- CSRR of PKEY by context 7 (R61), and of its number by a user context, which raises PRIV. -/
theorem test_csr : g1 (.csrr (.g 1) 0x100) sup = some 1 ∧ (after (exec (.csrr (.g 1) 0x100) user) fun t => t.act 0 1) = some none := by
  decide +kernel

/-- Reset: every cluster is OFF, and a step of an empty schedule goes on (assumption 2). -/
theorem test_reset : (State.reset.cluster 0).power = .off ∧ goesOn (step State.reset) = true := by decide +kernel

/-- The word that withFetchWord places runs in the next step, the first after reset (assumption 9). -/
theorem test_first_instruction :
    (after (step (State.reset.withFetchWord 16 0x0200)) fun t => (t.act 0 7).map Act.pc) = some (some 0) ∧
    (after (step (State.reset.withFetchWord 16 0x7042)) fun t => (t.ctx 0 7).g[1]) = some 2 := by decide +kernel

end Sys2Proof.Tests
end

section
/-! STEP, STEPW and STEPQ (R95, R96, R98, R99): the three read no operand field, so one law gives their issue; the rest is
what a STEP that takes effect does to its core, and the words of the pair that STEPQ writes. -/

namespace Sys2Proof.Machine

/-! ## The issue of an instruction that reads no field -/

/-- The values of the fields of an instruction that reads none. -/
def Vals.unread : Vals := ⟨some (0, 0), some (0, 0), some (0, 0), some (0, 0)⟩

@[simp] theorem peeked_writeOnly (o : Opd) (s : State) : peeked { dst := o } s = Vals.unread := rfl

@[simp] theorem operands_writeOnly (o : Opd) (s : State) : operands false { dst := o } s = (Vals.unread, s) := rfl

theorem Form.ports_writeOnly {o : Opd} (ho : o.port = none) : Form.ports { dst := o } = false := by
  have hpops : Form.pops { dst := o } = [] := rfl
  simp [Form.ports, hpops, ho]

/-- An instruction that reads no field, names no port and makes no seal of its own: once its checks have passed its body runs in
the state of its issue when it is ready, and before that it waits (R29). -/
theorem issue_writeOnly (pl : Plan) (s : State) {o : Opd} (hform : pl.form = { dst := o }) (ho : o.port = none)
    (hfirst : pl.sealsFirst = false) (hseals : pl.seals = fun _ _ => false) (hfull : pl.full = fun _ => false)
    (hlate : pl.late = fun _ _ => none) (hearly : pl.early s Vals.unread = none) (h : issuesPlain { dst := o } s = true) :
    issue pl s = if pl.ready s Vals.unread then runBody pl s Vals.unread else .next s := by
  have hports : pl.form.ports = false := by rw [hform, Form.ports_writeOnly ho]
  have hrun : issues false pl.form s = true := by
    rw [hform]
    simpa [issuesPlain, portSeal, Form.ports_writeOnly ho] using h
  cases hr : pl.ready s Vals.unread with
  | true =>
    have := issue_runs pl false s hfirst (by simp [hseals, hfull, hports]) hrun
    simpa [hform, hearly, hlate, hfull, entered, hr] using this
  | false =>
    have hu := issues_unheld hrun
    have hpeek : peeked pl.form s = Vals.unread := by rw [hform, peeked_writeOnly]
    rw [issue_attends pl s (unheld_attends hu), issueChecks_pass pl s (unheld_attends hu) (by rw [hpeek, hearly]), hpeek]
    simp [hfirst, issueLate, hlate, unheld_closed hu, hseals, hports, hfull, issueWait, hr]

/-! ## The commit -/

/-- Of its core a commit changes only which context issued last, and when (R45). -/
theorem State.core_commit (s : State) :
    s.commit.core s.cur.core = { s.core s.cur.core with last := s.cur.ctx, issuedAt := some s.now } := by
  simp [State.commit, State.issued]

/-- Of its activation a commit changes only the PC. -/
theorem State.act_commit (s : State) :
    s.commit.act s.cur.core s.cur.ctx = (s.act s.cur.core s.cur.ctx).map fun a => { a with pc := s.cur.next } := by
  simp [State.commit, State.issued]

/-- A commit under the cursor of the issue moves the PC of a running activation to the successor. -/
theorem pcNext_commit {s u : State} (hcur : u.cur = s.cur) (hact : (u.act s.cur.core s.cur.ctx).isSome = true) :
    pcNext s u.commit := by
  obtain ⟨a, ha⟩ := Option.isSome_iff_exists.mp hact
  rw [pcNext, ← hcur, State.act_commit, hcur, ha]
  rfl

theorem issuesPlain_attends {f : Form} {s : State} (h : issuesPlain f s = true) : attends f s = true :=
  unheld_attends (issues_unheld h)

theorem issuesPlain_act {f : Form} {s : State} (h : issuesPlain f s = true) :
    (s.act s.cur.core s.cur.ctx).isSome = true := by
  have ha := issuesPlain_attends h
  simp only [attends, Bool.and_eq_true] at ha
  exact ha.1.1.1.1

/-! ## A STEP that takes effect (R95) -/

theorem State.stepReady_iff (s : State) (core : Nat) :
    s.stepReady core = true ↔ ((s.core core).s.toNat : Int) - 1 ≤ (s.domain (s.core core).pid).c := by
  simp [State.stepReady]

theorem State.stepReady_false_iff (s : State) (core : Nat) :
    s.stepReady core = false ↔ (s.domain (s.core core).pid).c < ((s.core core).s.toNat : Int) - 1 := by
  simp only [State.stepReady, decide_eq_false_iff_not, not_le]

@[simp] theorem State.takeStep_cur (s : State) (core : Nat) : (s.takeStep core).cur = s.cur := rfl

@[simp] theorem State.takeStep_act (s : State) (core core' c : Nat) : (s.takeStep core).act core' c = s.act core' c := rfl

/-- The last STEP of the quota: the core arrives at s and enters the next step with the quota of STQUOTA. -/
theorem State.takeStep_last (s : State) (core : Nat) (h : (s.core core).k + 1 = (s.core core).q) :
    let k := s.core core
    let k' := (s.takeStep core).core core
    k'.arrived = k.arrived ++ [k.s] ∧ k'.s = k.s + 1 ∧ k'.k = 0 ∧ k'.q = k.stquota := by
  simp only [State.takeStep, State.core_updCore_same, if_pos h, and_self]

/-- A STEP before the last of the quota only counts. -/
theorem State.takeStep_counts (s : State) (core : Nat) (h : (s.core core).k + 1 ≠ (s.core core).q) :
    (s.takeStep core).core core = { s.core core with k := (s.core core).k + 1 } := by
  simp only [State.takeStep, State.core_updCore_same, if_neg h]

/-! ## STEP (R95, R96) -/

theorem exec_step (s : State) : exec .step s = execStep s := by rfl

/-- While its activation is restartable STEP only counts as pending (R96). -/
theorem execStep_open {s : State} (h : issuesPlain {} s = true) (ho : s.isOpen s.cur.core s.cur.ctx = true) :
    execStep s = .next (s.updAct s.cur.core s.cur.ctx fun a => { a with steps := a.steps + 1 }).commit := by
  rw [execStep, issue_writeOnly (o := .none) _ s rfl rfl rfl rfl rfl rfl rfl h]
  simp [ho, runBody, makeRoom]

/-- After the seal STEP waits until C ≥ s - 1, and then takes effect (R95). -/
theorem execStep_shut {s : State} (h : issuesPlain {} s = true) (ho : s.isOpen s.cur.core s.cur.ctx = false) :
    execStep s = .next (if s.stepReady s.cur.core then (s.takeStep s.cur.core).commit else s) := by
  rw [execStep, issue_writeOnly (o := .none) _ s rfl rfl rfl rfl rfl rfl rfl h]
  cases hr : s.stepReady s.cur.core <;> simp [ho, hr, runBody, makeRoom]

/-- What a STEP after the seal gives once C ≥ s - 1 (R95). -/
theorem execStep_takes_effect {s : State} (h : issuesPlain {} s = true) (ho : s.isOpen s.cur.core s.cur.ctx = false)
    (hr : s.stepReady s.cur.core = true) :
    let core := s.cur.core
    let k := s.core core
    ∃ t : State, Gives .step s t ∧ pcNext s t ∧
      (k.k + 1 = k.q → (t.core core).arrived = k.arrived ++ [k.s] ∧ (t.core core).s = k.s + 1 ∧ (t.core core).k = 0 ∧
        (t.core core).q = k.stquota) ∧
      (k.k + 1 ≠ k.q → (t.core core).arrived = k.arrived ∧ (t.core core).s = k.s ∧ (t.core core).k = k.k + 1 ∧
        (t.core core).q = k.q) := by
  have hexec : exec .step s = .next (s.takeStep s.cur.core).commit := by rw [exec_step, execStep_shut h ho, if_pos hr]
  have hcore := (s.takeStep s.cur.core).core_commit
  rw [State.takeStep_cur] at hcore
  have hact : ((s.takeStep s.cur.core).act s.cur.core s.cur.ctx).isSome = true := by
    rw [State.takeStep_act]
    exact issuesPlain_act h
  refine ⟨_, hexec, pcNext_commit (s.takeStep_cur _) hact, fun hlast => ?_, fun hcounts => ?_⟩
  · rw [hcore]
    exact s.takeStep_last s.cur.core hlast
  · rw [hcore, s.takeStep_counts s.cur.core hcounts]
    exact ⟨rfl, rfl, rfl, rfl⟩

/-- What a STEP before the seal gives: one more pending STEP, and nothing of the step state (R96). -/
theorem execStep_adds_pending {s : State} (h : issuesPlain {} s = true) (ho : s.isOpen s.cur.core s.cur.ctx = true) :
    let core := s.cur.core
    let c := s.cur.ctx
    ∃ t : State, Gives .step s t ∧ t.pendingSteps core c = s.pendingSteps core c + 1 ∧
      t.core core = { s.core core with last := c, issuedAt := some s.now } ∧ pcNext s t := by
  have hact := issuesPlain_act h
  refine ⟨_, execStep_open h ho, ?_, State.core_commit _, pcNext_commit rfl (by simpa using hact)⟩
  obtain ⟨a, ha⟩ := Option.isSome_iff_exists.mp hact
  simp [State.pendingSteps, State.commit, State.issued, ha]

theorem Core.writeCsr_stquota (k : Core) (x : Word) :
    k.writeCsr 0x106 x = { k with stquota := atLeast1 (bits x 0 16) } := by rfl

/-- STQUOTA is no FFLAGS, and its write reaches no limit (R245, R247). -/
theorem csrPut_stquota (s : State) (core c : Nat) (x : Word) :
    csrPut s core c 0x106 x = (s.updCore core fun k => k.writeCsr 0x106 x).updCluster (clusterOf core)
      fun y => y.writeCsr 0x106 x := by
  simp only [csrPut]
  rw [if_neg (by decide), if_neg (by decide), if_neg (by decide)]

/-- A write of STQUOTA leaves the quota of the running step alone (R95). -/
theorem csrPut_stquota_q (s : State) (core c : Nat) (x : Word) :
    ((csrPut s core c 0x106 x).core core).q = (s.core core).q := by
  rw [csrPut_stquota, State.updCluster_at_core, State.core_updCore_same, Core.writeCsr_stquota]

/-! ## STEPW (R98) -/

theorem exec_stepw (s : State) : exec .stepw s = execStepw s := by rfl

/-- STEPW with pending STEPs raises ILL. -/
theorem execStepw_pending {s : State} (h : issuesPlain {} s = true) (hp : 0 < s.pendingSteps s.cur.core s.cur.ctx) :
    execStepw s = s.raise (illTrap s) := by
  have hill : illIf s (decide (0 < s.pendingSteps s.cur.core s.cur.ctx)) = some (illTrap s) := by simp [illIf, hp]
  rw [execStepw]
  exact issue_early _ s (illTrap s) (issuesPlain_attends h) hill

/-- STEPW without pending STEPs completes once C ≥ s - 1. -/
theorem execStepw_none {s : State} (h : issuesPlain {} s = true) (hp : s.pendingSteps s.cur.core s.cur.ctx = 0) :
    execStepw s = .next (if s.stepReady s.cur.core then s.commit else s) := by
  rw [execStepw, issue_writeOnly (o := .none) _ s rfl rfl rfl rfl rfl rfl (by simp [illIf, hp]) h]
  cases hr : s.stepReady s.cur.core <;> simp [hr, runBody, makeRoom]

/-! ## STEPQ (R99) -/

theorem exec_stepq (d : Pair) (sel : Fin 3) (s : State) : exec (.stepq d sel) s = execStepq d sel s := by rfl

/-- STEPQ writes its pair in the cycle of its issue (R387). -/
theorem execStepq_writes {d : Pair} {s : State} (sel : Fin 3) (h : issuesPlain { dst := .p d } s = true) :
    execStepq d sel s =
      .next (s.writePair d (stepQuery s s.cur.core sel).1 (stepQuery s s.cur.core sel).2).commit := by
  rw [execStepq, issue_writeOnly (o := .p d) _ s rfl rfl rfl rfl rfl rfl rfl h]
  rfl

/-- The two words of a number of 64 bits, low word first. -/
theorem halves_of_bitVec (x : BitVec 64) :
    (x.extractLsb' 0 32, x.extractLsb' 32 32) = (w32 x.toNat, w32 (x.toNat / 2 ^ 32)) := by
  refine Prod.ext (BitVec.eq_of_toNat_eq ?_) (BitVec.eq_of_toNat_eq ?_)
  · simp
  · simp [Nat.shiftRight_eq_div_pow]

/-- The two words of an integer, modulo 2^64. -/
theorem halves_of_int (z : Int) :
    ((BitVec.ofInt 64 z).extractLsb' 0 32, (BitVec.ofInt 64 z).extractLsb' 32 32) = (wInt z, wInt (z / 2 ^ 32)) := by
  refine Prod.ext (BitVec.eq_of_toNat_eq ?_) (BitVec.eq_of_toNat_eq ?_)
  · simp
    omega
  · simp [Nat.shiftRight_eq_div_pow]
    omega

/-- The low word of STEPQ 2: k in bits 15 to 0, HOLD in bit 16, ABT in bit 17. -/
def stepFlags (k : BitVec 16) (hold abt : Bool) : Word :=
  w32 (k.toNat + (if hold then 2 ^ 16 else 0) + (if abt then 2 ^ 17 else 0))

theorem stepFlags_toNat (k : BitVec 16) (hold abt : Bool) :
    (stepFlags k hold abt).toNat = k.toNat + 2 ^ 16 * hold.toNat + 2 ^ 17 * abt.toNat := by
  have := k.isLt
  cases hold <;> cases abt <;> simp [stepFlags] <;> omega

theorem stepFlags_k (k : BitVec 16) (hold abt : Bool) : (stepFlags k hold abt).toNat % 65536 = k.toNat := by
  have := k.isLt
  rw [stepFlags_toNat]
  omega

theorem stepFlags_hold (k : BitVec 16) (hold abt : Bool) : (stepFlags k hold abt).getLsbD 16 = hold := by
  have := k.isLt
  rw [BitVec.getLsbD, stepFlags_toNat, Nat.testBit_eq_decide_div_mod_eq]
  cases hold <;> simp <;> omega

theorem stepFlags_abt (k : BitVec 16) (hold abt : Bool) : (stepFlags k hold abt).getLsbD 17 = abt := by
  have := k.isLt
  have := hold.toNat_le
  rw [BitVec.getLsbD, stepFlags_toNat, Nat.testBit_eq_decide_div_mod_eq]
  cases abt <;> simp <;> omega

theorem stepFlags_lt (k : BitVec 16) (hold abt : Bool) : (stepFlags k hold abt).toNat < 2 ^ 18 := by
  have := k.isLt
  have := hold.toNat_le
  have := abt.toNat_le
  rw [stepFlags_toNat]
  omega

theorem stepQuery_step (s : State) (core : Nat) :
    stepQuery s core 0 = (w32 (s.core core).s.toNat, w32 ((s.core core).s.toNat / 2 ^ 32)) := halves_of_bitVec _

theorem stepQuery_committed (s : State) (core : Nat) :
    stepQuery s core 1 =
      (wInt (s.domain (s.core core).pid).c, wInt ((s.domain (s.core core).pid).c / 2 ^ 32)) := halves_of_int _

theorem stepQuery_status (s : State) (core : Nat) :
    let k := s.core core
    let d := s.domain k.pid
    stepQuery s core 2 =
      (stepFlags k.k (d.phase == .held && decide (d.c + 2 = k.s.toNat)) d.abt, d.stretched) := rfl

/-! ## The obligation -/

/-- Settles O28: STEP after the seal and before it, the write of STQUOTA, STEPW, and the pair of each STEPQ. -/
theorem stepRules : Obligations.StepRules := by
  unfold Obligations.StepRules
  refine ⟨fun s x => ?_, fun d s => ⟨fun h => ?_, fun h => ?_⟩⟩
  · intro core k h ho
    refine ⟨fun hw => ?_, fun hr => ?_, csrPut_stquota_q s core s.cur.ctx x⟩
    · exact (execStep_shut h ho).trans (by rw [(s.stepReady_false_iff core).mpr hw]; rfl)
    · exact execStep_takes_effect h ho ((s.stepReady_iff core).mpr hr)
  · refine ⟨execStep_adds_pending h, fun hp => execStepw_pending h hp, fun hp hr => ?_, fun hp hw => ?_⟩
    · exact (execStepw_none h hp).trans (by rw [(s.stepReady_iff _).mpr hr]; rfl)
    · exact (execStepw_none h hp).trans (by rw [(s.stepReady_false_iff _).mpr hw]; rfl)
  · refine ⟨?_, ?_, ?_⟩
    · simpa only [Gives, exec_stepq, stepQuery_step] using execStepq_writes 0 h
    · simpa only [Gives, exec_stepq, stepQuery_committed] using execStepq_writes 1 h
    · refine ⟨_, execStepq_writes 2 h, ?_⟩
      rw [stepQuery_status]
      refine ⟨stepFlags_k .., ?_, stepFlags_abt .., stepFlags_lt ..⟩
      rw [stepFlags_hold]
      simp

end Sys2Proof.Machine
end

section
/-! Branches (R308, R309). BR and CALL read no field. BZ and BNZ test d, which their checks know before the issue unless it is a
port; a port's word they know after its pop, so that the pop stays when the target then raises ILL (R59, R309). -/

namespace Sys2Proof.Machine

/-! ## Operands that are no ports -/

/-- A field that names no port is read as it stands, and reading it changes nothing. -/
theorem State.take_of_no_port (s : State) (core c : Nat) {o : Opd} (ho : o.port = none) :
    ∃ x, s.peek core c [] o = some x ∧ s.take core c o = (x, s) := by
  cases o with
  | none => exact ⟨_, rfl, rfl⟩
  | p x => exact ⟨s.pairVal core c x, by simp [State.peek], rfl⟩
  | r x =>
    cases x with
    | port d => simp [Opd.port] at ho
    | _ => exact ⟨_, rfl, rfl⟩

theorem State.takes_of_no_pops (s : State) (core c : Nat) {f : Form} (hf : f.pops = []) :
    s.takes core c f = (s.peeks core c [] f, s) := by
  simp only [Form.pops, List.filterMap_eq_nil_iff, List.forall_mem_cons, List.not_mem_nil, false_imp_iff, implies_true,
    and_true] at hf
  obtain ⟨ha, hb, he, hd⟩ := hf
  obtain ⟨a, peek_a, take_a⟩ := s.take_of_no_port core c ha
  obtain ⟨b, peek_b, take_b⟩ := s.take_of_no_port core c hb
  obtain ⟨e, peek_e, take_e⟩ := s.take_of_no_port core c he
  obtain ⟨d, peek_d, take_d⟩ := s.take_of_no_port core c hd
  simp only [State.takes, State.peeks, take_a, take_b, take_e, take_d, peek_a, peek_b, peek_e, peek_d]

/-- An instruction that names no port has at its issue the operands that its checks know. -/
theorem operandsPlain_of_no_ports (s : State) {f : Form} (hf : f.ports = false) : operandsPlain f s = (peeked f s, s) := by
  have hpops : f.pops = [] := by
    simp only [Form.ports, Bool.or_eq_false_iff, Bool.not_eq_false', List.isEmpty_iff] at hf
    exact hf.1
  simp [operandsPlain, operands, portSeal, hf, entered, peeked, State.takes_of_no_pops s _ _ hpops]

theorem operandsPlain_cur (f : Form) (s : State) :
    (operandsPlain f s).2.cur = { s.cur with popped := (operandsPlain f s).2.cur.popped } := operands_cur ..

/-! ## The issue of an instruction whose early checks may need a popped word -/

/-- Ready, and its ports too, an instruction without waits and seals of its own comes to its pops. -/
theorem issueWait_pops (pl : Plan) (must : Bool) (s : State) (v : Vals) (hfull : pl.full = fun _ => false)
    (hready : pl.ready = fun _ _ => true) (h : issues must pl.form s = true) :
    issueWait pl (entered must s) v = issuePops pl (entered must s) := by
  simp only [issues, Bool.and_eq_true, Bool.not_eq_true', ← entered_cur must s] at h
  obtain ⟨⟨⟨_, hports⟩, hpush⟩, _⟩ := h
  have hwaits : pushWaits pl (entered must s) = false := by simpa [pushWaits, hfull] using hpush
  simp only [issueWait, hready, hports, hwaits, Bool.and_self, Bool.not_false, if_true]

/-- Past its first checks an instruction without seals and waits of its own comes to its pops, after the seal of its ports (R33). -/
theorem issue_pops (pl : Plan) (s : State) (hfirst : pl.sealsFirst = false) (hlate : pl.late = fun _ _ => none)
    (hseals : pl.seals = fun _ _ => false) (hfull : pl.full = fun _ => false) (hready : pl.ready = fun _ _ => true)
    (h : issuesPlain pl.form s = true) (hearly : pl.early s (peeked pl.form s) = none) :
    issue pl s = issuePops pl (entered (portSeal pl.form s) s) := by
  have hattends := issuesPlain_attends h
  have hwait := issueWait_pops pl _ s (peeked pl.form s) hfull hready h
  rw [issue_attends pl s hattends, issueChecks_pass pl s hattends hearly]
  simp only [issueLate, hfirst, hlate, hseals, hfull, unheld_closed (issues_unheld h), delayed_nil, Option.filter_none,
    Option.or_none, Bool.false_eq_true, if_false, Bool.false_or, Bool.false_and, Bool.or_false]
  cases hp : pl.form.ports with
  | true =>
    have hseal : portSeal pl.form s = s.isOpen s.cur.core s.cur.ctx := by simp [portSeal, hp]
    rw [issuesPlain, hseal] at h
    rw [hseal] at hwait ⊢
    rw [if_pos rfl, sealThen_pass pl.form s _ h, hwait]
  | false =>
    have hseal : portSeal pl.form s = false := by simp [portSeal, hp]
    rw [hseal] at hwait ⊢
    exact hwait

/-- A cause that the early checks find once the ports are popped, and not before, is raised after the pops (R59, R234). -/
theorem issue_early_popped (pl : Plan) (s : State) {f : Form} {t : TrapInfo} (hform : pl.form = f) (hfirst : pl.sealsFirst = false)
    (hlate : pl.late = fun _ _ => none) (hseals : pl.seals = fun _ _ => false) (hfull : pl.full = fun _ => false)
    (hready : pl.ready = fun _ _ => true) (h : issuesPlain f s = true) (hpeeked : pl.early s (peeked f s) = none)
    (hpopped : pl.early (operandsPlain f s).2 (operandsPlain f s).1 = some t) (hcause : t.cause ≠ 17) :
    issue pl s = (operandsPlain f s).2.raise t := by
  subst hform
  rw [issue_pops pl s hfirst hlate hseals hfull hready h hpeeked]
  rw [operandsPlain, operands, ← entered_cur (portSeal pl.form s) s] at hpopped ⊢
  simp only [issuePops, hpopped, Option.some_or, raiseCheck, hcause, if_false]

/-! ## The cause and the target -/

/-- The state after ILL of the instruction that issues in s, raised in u, whose popped words the record keeps. -/
def State.ill (s u : State) : State :=
  u.issued.trap s.cur.core s.cur.ctx ⟨1, s.cur.ip.setWidth 32, s.cur.first.setWidth 32⟩ s.cur.pc s.cur.pc u.cur.popped

/-- A cause raised after the pops is one of the instruction that issues. -/
theorem raise_illTrap {s u : State} (hcur : u.cur = { s.cur with popped := u.cur.popped }) :
    u.raise (illTrap u) = .next (s.ill u) := by
  rw [State.raise, illTrap, hcur]
  rfl

theorem branchTarget_of_cur {s u : State} (hcur : u.cur = { s.cur with popped := u.cur.popped }) (off : Int) :
    branchTarget u off = branchTarget s off := by
  rw [branchTarget, hcur, branchTarget]

theorem outside_eq_false {t : Int} (h : 0 ≤ t ∧ t ≤ 65535) : outside t = false := by
  simpa [outside] using h

theorem outside_eq_true {t : Int} (h : ¬(0 ≤ t ∧ t ≤ 65535)) : outside t = true := by
  simp only [outside, decide_eq_true_eq]
  omega

/-! ## BR and CALL -/

/-- The plan of BR and CALL: always taken, after the write that CALL makes. -/
def branchAlways (o : Opd) (w : State → State) (off : Int) : Plan where
  form := { dst := o }
  early := fun s _ => illIf s (outside (branchTarget s off))
  body := fun s _ => .ok ((w s).jump (branchTarget s off).toNat)

/-- The write of CALL: the index of its successor. -/
def State.link (s : State) : State := s.write .lk (w32 s.cur.next)

theorem exec_br (off : Int) (s : State) : exec (.br off) s = issue (branchAlways .none id off) s := by rfl

theorem exec_call (off : Int) (s : State) : exec (.call off) s = issue (branchAlways (.r .lk) State.link off) s := by rfl

/-- BR and CALL go to a target inside the code store. -/
theorem issue_branchAlways_inside {o : Opd} (w : State → State) {s : State} {off : Int} (ho : o.port = none)
    (h : issuesPlain { dst := o } s = true) (hin : outside (branchTarget s off) = false) :
    issue (branchAlways o w off) s = .next ((w s).jump (branchTarget s off).toNat).commit := by
  have hearly : (branchAlways o w off).early s Vals.unread = none := by simp [branchAlways, hin, illIf]
  rw [issue_writeOnly (branchAlways o w off) s rfl ho rfl rfl rfl rfl hearly h]
  rfl

/-- BR and CALL to a target outside the code store raise ILL before the write (R309). -/
theorem issue_branchAlways_outside {o : Opd} (w : State → State) {s : State} {off : Int}
    (h : issuesPlain { dst := o } s = true) (hout : outside (branchTarget s off) = true) :
    issue (branchAlways o w off) s = .next (s.ill s) := by
  have hearly : (branchAlways o w off).early s Vals.unread = some (illTrap s) := by simp [branchAlways, hout, illIf]
  rw [issue_early (branchAlways o w off) s (illTrap s) (issuesPlain_attends h) hearly]
  exact raise_illTrap rfl

/-! ## BZ and BNZ -/

/-- The form of BZ and BNZ: they read d and write nothing. -/
abbrev testForm (d : Reg) : Form := { d := .r d }

theorem exec_bz (d : Reg) (off : Int) (s : State) : exec (.bz d off) s = issue (branchIf (fun x => x == 0) d off) s := by rfl

theorem exec_bnz (d : Reg) (off : Int) (s : State) : exec (.bnz d off) s = issue (branchIf (fun x => x != 0) d off) s := by rfl

/-- The checks before the pop do not know the word of a port; any other register they know as the issue reads it. -/
theorem peeked_testForm (d : Reg) (s : State) :
    (peeked (testForm d) s).d = none ∨ operandsPlain (testForm d) s = (peeked (testForm d) s, s) := by
  cases d with
  | port p => exact .inl rfl
  | _ => exact .inr (operandsPlain_of_no_ports s rfl)

theorem operandsPlain_d_isSome (f : Form) (s : State) : (operandsPlain f s).1.d.isSome = true := rfl

section
variable {test : Word → Bool} {d : Reg} {off : Int} {s : State}

/-- Without a value of d a branch raises nothing. -/
theorem branchIf_early_unknown {v : Vals} (hv : v.d = none) : (branchIf test d off).early s v = none := by
  simp [branchIf, hv, illIf]

/-- The checks of a branch after the pop: ILL when it is taken to a target outside the code store. -/
theorem branchIf_early_popped :
    (branchIf test d off).early (operandsPlain (testForm d) s).2 (operandsPlain (testForm d) s).1 =
      illIf (operandsPlain (testForm d) s).2 (test (operandsPlain (testForm d) s).1.wd && outside (branchTarget s off)) := by
  simp only [branchIf, operandsPlain_d_isSome, Bool.true_and, branchTarget_of_cur (operandsPlain_cur ..)]

/-- A branch that is not taken goes to its successor; one that is taken goes to its target inside the code store. -/
theorem issue_branchIf_goes (h : issuesPlain (testForm d) s = true)
    (hpass : (test (operandsPlain (testForm d) s).1.wd && outside (branchTarget s off)) = false) :
    issue (branchIf test d off) s =
      .next (if test (operandsPlain (testForm d) s).1.wd
        then (operandsPlain (testForm d) s).2.jump (branchTarget s off).toNat else (operandsPlain (testForm d) s).2).commit := by
  have hpopped : (branchIf test d off).early (operandsPlain (testForm d) s).2 (operandsPlain (testForm d) s).1 = none := by
    rw [branchIf_early_popped, hpass]
    rfl
  have hpeeked : (branchIf test d off).early s (peeked (testForm d) s) = none := by
    obtain hport | hreg := peeked_testForm d s
    · exact branchIf_early_unknown hport
    · rwa [hreg] at hpopped
  have hseal : portSeal (testForm d) s = (s.isOpen s.cur.core s.cur.ctx && (false || (testForm d).ports || false)) := by
    simp [portSeal, Bool.and_comm]
  rw [issue_runs (branchIf test d off) _ s rfl hseal h hpeeked rfl rfl rfl hpopped rfl,
    ← branchTarget_of_cur (operandsPlain_cur (testForm d) s) off]
  rfl

/-- A taken branch goes to a target inside the code store. -/
theorem issue_branchIf_taken (h : issuesPlain (testForm d) s = true) (htest : test (operandsPlain (testForm d) s).1.wd = true)
    (hin : outside (branchTarget s off) = false) :
    issue (branchIf test d off) s = .next ((operandsPlain (testForm d) s).2.jump (branchTarget s off).toNat).commit := by
  rw [issue_branchIf_goes h (by rw [hin, Bool.and_false]), if_pos htest]

/-- A branch that is not taken goes to its successor, wherever its target is. -/
theorem issue_branchIf_untaken (h : issuesPlain (testForm d) s = true)
    (htest : test (operandsPlain (testForm d) s).1.wd = false) :
    issue (branchIf test d off) s = .next (operandsPlain (testForm d) s).2.commit := by
  rw [issue_branchIf_goes h (by rw [htest, Bool.false_and]), if_neg (by simp [htest])]

/-- A branch that is taken to a target outside the code store raises ILL; the word of a port that it tests is popped. -/
theorem issue_branchIf_ill (h : issuesPlain (testForm d) s = true) (htest : test (operandsPlain (testForm d) s).1.wd = true)
    (hout : outside (branchTarget s off) = true) :
    issue (branchIf test d off) s = .next (s.ill (operandsPlain (testForm d) s).2) := by
  have hpopped : (branchIf test d off).early (operandsPlain (testForm d) s).2 (operandsPlain (testForm d) s).1 =
      some (illTrap (operandsPlain (testForm d) s).2) := by
    rw [branchIf_early_popped, htest, hout]
    rfl
  rw [← raise_illTrap (operandsPlain_cur (testForm d) s)]
  obtain hport | hreg := peeked_testForm d s
  · exact issue_early_popped _ s rfl rfl rfl rfl rfl rfl h (branchIf_early_unknown hport) hpopped (by simp [illTrap])
  · rw [hreg] at hpopped ⊢
    exact issue_early _ s (illTrap s) (issuesPlain_attends h) hpopped

end

/-! ## The obligation -/

/-- Settles O15: BR and CALL by their target; BZ and BNZ by their test, and a taken one by its target. -/
theorem branchRules : Obligations.BranchRules := by
  unfold Obligations.BranchRules
  intro d off s target inside ill
  have hill : ∀ u, ill u = s.ill u := fun u => rfl
  refine ⟨fun h => ⟨fun hin => ?_, fun hout => ?_⟩, fun h => ⟨fun hin => ?_, fun hout => ?_⟩,
    fun h => ⟨fun hx hin => ?_, fun hx hout => ?_, fun hx => ?_, fun hx hin => ?_, fun hx hout => ?_, fun hx => ?_⟩⟩
  · exact (exec_br off s).trans (issue_branchAlways_inside id rfl h (outside_eq_false hin))
  · exact (exec_br off s).trans (issue_branchAlways_outside id h (outside_eq_true hout))
  · exact (exec_call off s).trans (issue_branchAlways_inside State.link rfl h (outside_eq_false hin))
  · exact (exec_call off s).trans (issue_branchAlways_outside State.link h (outside_eq_true hout))
  · exact (exec_bz d off s).trans (issue_branchIf_taken h (beq_iff_eq.mpr hx) (outside_eq_false hin))
  · rw [hill]
    exact (exec_bz d off s).trans (issue_branchIf_ill h (beq_iff_eq.mpr hx) (outside_eq_true hout))
  · exact (exec_bz d off s).trans (issue_branchIf_untaken h (beq_eq_false_iff_ne.mpr hx))
  · exact (exec_bnz d off s).trans (issue_branchIf_taken h (bne_iff_ne.mpr hx) (outside_eq_false hin))
  · rw [hill]
    exact (exec_bnz d off s).trans (issue_branchIf_ill h (bne_iff_ne.mpr hx) (outside_eq_true hout))
  · exact (exec_bnz d off s).trans (issue_branchIf_untaken h (bne_eq_false_iff_eq.mpr hx))

end Sys2Proof.Machine
end

section
/-! FCLASS (R326). The class of a word is read off the fields of R145, in which the value of an FP32 word is given first; that no
flag is set needs what an issue does to FFLAGS before and after its body, which is nothing. -/

namespace Sys2Proof.Machine

/-! ## The value of an FP32 word by its fields (R145, R146) -/

theorem getLsbD_31_eq (x : Word) : x.getLsbD 31 = (x.toNat / 2 ^ 31 == 1) := by
  have hx := x.isLt
  have hbit : x.getLsbD 31 = decide (x.toNat / 2 ^ 31 % 2 = 1) := Nat.testBit_eq_decide_div_mod_eq
  rw [hbit, Nat.mod_eq_of_lt (by omega)]
  rfl

/-- An FP32 word below its sign is its exponent field above its fraction field. -/
theorem magnitude_eq (x : Word) : x.toNat % 2 ^ 31 = 2 ^ 23 * expField x + fracField x := by
  unfold expField fracField
  omega

/-- The order of magnitudes is that of the fields: the bits of ∞ part the finite words from the NaNs. -/
theorem fval_eq (x : Word) :
    fval x =
      if expField x = 255 then (if fracField x = 0 then .inf (x.getLsbD 31) else .nan)
      else if expField x = 0 then .fin (x.getLsbD 31) (fracField x) (-149)
      else .fin (x.getLsbD 31) (2 ^ 23 + fracField x) ((expField x : Int) - 150) := by
  have hword : x.toNat % 2 ^ 32 = x.toNat := Nat.mod_eq_of_lt x.isLt
  have hfrac : fracField x < 2 ^ 23 := Nat.mod_lt _ (by decide)
  have hexp : expField x < 256 := Nat.mod_lt _ (by decide)
  have hinf : (2 ^ 23 * expField x + fracField x = 0x7F800000) ↔ expField x = 255 ∧ fracField x = 0 := by omega
  have hnan : (0x7F800000 < 2 ^ 23 * expField x + fracField x) ↔ expField x = 255 ∧ fracField x ≠ 0 := by omega
  have hdiv : (2 ^ 23 * expField x + fracField x) / 2 ^ 23 = expField x := by omega
  have hmod : (2 ^ 23 * expField x + fracField x) % 2 ^ 23 = fracField x := by omega
  simp only [fval, Fmt.value, Fmt.width, Fmt.hasInf, Fmt.infBits, Fmt.frac, Fmt.bias, hword, Nat.add_one_sub_one,
    ← getLsbD_31_eq, magnitude_eq, hinf, hnan, hdiv, hmod, Bool.true_and, beq_iff_eq, decide_eq_true_eq]
  by_cases htop : expField x = 255
  · by_cases hzero : fracField x = 0 <;> simp [htop, hzero]
  · have he4m3 : (Fmt.fp32 == Fmt.e4m3) = false := rfl
    have hexponent : (expField x : Int) - 127 - 23 = expField x - 150 := by omega
    simp [htop, he4m3, hexponent]

/-! ## The class of a word (R326) -/

/-- The number of the one bit that FCLASS sets (R326). -/
def classBit (x : Word) : Nat :=
  if expField x = 255 then (if fracField x = 0 then (if x.getLsbD 31 then 0 else 7) else 8)
  else if expField x = 0 then
    (if fracField x = 0 then (if x.getLsbD 31 then 3 else 4) else (if x.getLsbD 31 then 2 else 5))
  else (if x.getLsbD 31 then 1 else 6)

theorem fClass_eq (x : Word) : fClass x = w32 (2 ^ classBit x) := by
  have hfrac : fracField x < 8388608 := Nat.mod_lt _ (by decide)
  rw [fClass, fval_eq, classBit]
  by_cases htop : expField x = 255
  · by_cases hzero : fracField x = 0
    · cases x.getLsbD 31 <;> simp [htop, hzero]
    · simp [htop, hzero]
  · by_cases hbottom : expField x = 0
    · by_cases hzero : fracField x = 0
      · cases x.getLsbD 31 <;> simp [hbottom, hzero]
      · cases x.getLsbD 31 <;> simp [hbottom, hzero, hfrac]
    · cases x.getLsbD 31 <;> simp [htop, hbottom]

/-! ## What an issue does to FFLAGS -/

theorem Still.fflags {s t : State} (h : Still s t) (core c : Nat) : (t.ctx core c).fflags = (s.ctx core c).fflags :=
  congrArg (fun r => r.2.2.1) (h.regs core c)

namespace State

/-- An update that keeps FFLAGS of its context keeps FFLAGS of every context. -/
theorem fflags_updCtx (s : State) (core c : Nat) (f : Ctx → Ctx) (h : (f (s.ctx core c)).fflags = (s.ctx core c).fflags)
    (core' c' : Nat) : ((s.updCtx core c f).ctx core' c').fflags = (s.ctx core' c').fflags := by
  rw [ctx_updCtx]
  split
  · rename_i hsame
    simpa only [ctx, hsame] using h
  · rfl

theorem fflags_popPort (s : State) (core c : Nat) (d : Dir) (core' c' : Nat) :
    ((s.popPort core c d).2.ctx core' c').fflags = (s.ctx core' c').fflags := by
  rw [← (s.calm_acquire core c).fflags core' c', popPort, popQueue]
  split
  · rfl
  · rename_i r _
    have hpop := fflags_updCtx (s.acquire core c) core c
      (fun x => { x with inq := x.inq.set d.idx.val r d.idx.isLt }) rfl core' c'
    dsimp only
    split <;> exact hpop

theorem fflags_take (s : State) (core c : Nat) (o : Opd) (core' c' : Nat) :
    ((s.take core c o).2.ctx core' c').fflags = (s.ctx core' c').fflags := by
  unfold take
  split
  · rfl
  · exact s.fflags_popPort core c _ core' c'
  · rfl
  · rfl

theorem fflags_pushPort (s : State) (core c : Nat) (d : Dir) (w : Word) (core' c' : Nat) :
    ((s.pushPort core c d w).ctx core' c').fflags = (s.ctx core' c').fflags := by
  unfold pushPort
  split
  · rfl
  · have hpush := fflags_updCtx (s.flush core c) core c
      (fun x => { x with outq := x.outq.set d.idx.val (x.outq[d.idx] + 1) d.idx.isLt }) rfl core' c'
    exact hpush.trans ((s.still_flush core c).fflags core' c')

theorem fflags_write (s : State) (r : Reg) (v : Word) (core c : Nat) :
    ((s.write r v).ctx core c).fflags = (s.ctx core c).fflags := by
  cases r with
  | port d => exact s.fflags_pushPort _ _ d v core c
  | _ => exact fflags_updCtx s _ _ (fun x => x.setReg _ v) rfl core c

theorem fflags_addFlags_zero (s : State) (core c : Nat) : ((s.addFlags 0).ctx core c).fflags = (s.ctx core c).fflags :=
  fflags_updCtx s _ _ (fun x => x.addFlags 0) BitVec.or_zero core c

theorem fflags_commit (s : State) (core c : Nat) : (s.commit.ctx core c).fflags = (s.ctx core c).fflags :=
  fflags_updCtx s.issued _ _ _ rfl core c

end State

theorem fflags_entered (must : Bool) (s : State) (core c : Nat) :
    ((entered must s).ctx core c).fflags = (s.ctx core c).fflags := by
  unfold entered
  split
  · exact (s.still_sealPrefix _ _).fflags core c
  · rfl

/-- Neither the seal of a port nor a pop changes FFLAGS. -/
theorem fflags_operandsPlain (f : Form) (s : State) (core c : Nat) :
    ((operandsPlain f s).2.ctx core c).fflags = (s.ctx core c).fflags := by
  simp only [operandsPlain, operands, State.takes, State.fflags_take, fflags_entered]

/-! ## The issue -/

/-- A floating-point instruction of one source puts its result and its flags, and completes (R159). -/
theorem issue_float1 {d a : Reg} (f : Word → FRes) {s : State} (h : issuesPlain { a := .r a, dst := .r d } s = true) :
    issue (float1 d a f) s =
      .next (putFloat (operandsPlain { a := .r a, dst := .r d } s).2 d
        (f (operandsPlain { a := .r a, dst := .r d } s).1.wa)).commit := by
  rw [issue_plain (float1 d a f) s rfl rfl rfl rfl rfl rfl h]
  rfl

theorem exec_fclass (d a : Reg) (s : State) : exec (.fclass d a) s = issue (float1 d a fun x => (fClass x, 0)) s := by rfl

/-! ## The obligation -/

/-- Settles O13: the class is read off the fields, and writing it with no flags leaves FFLAGS as they were. -/
theorem classOfAWord : Obligations.ClassOfAWord := by
  unfold Obligations.ClassOfAWord
  intro d a s f x u neg e m bit h
  have hclass : fClass x = w32 (2 ^ bit) := fClass_eq x
  refine ⟨_, ?_, rfl, fun _ => ?_⟩
  · rw [← hclass]
    exact (exec_fclass d a s).trans (issue_float1 _ h)
  · rw [State.fflags_commit, State.fflags_addFlags_zero, State.fflags_write, fflags_operandsPlain]

end Sys2Proof.Machine
end
